-- ==== Sys2Proof/Word.lean ====
section
/-! DEFINITION. The widths of the block's values (spec/00_scope.md R6): bytes, 16-bit values, the 24-bit command word and
the 3-bit register index. Every value is unsigned and bit 0 is the least significant. -/

namespace Sys2Proof

/-- One byte: the data unit of the CRC (R1) and an operand field D0 or D1 of a command word (R70). -/
abbrev Byte := BitVec 8

/-- A 16-bit value: an accumulator, a CRC value, a chip address, a register as the read port returns it. -/
abbrev Half := BitVec 16

/-- A 24-bit command word, as the command port takes it (R70). -/
abbrev CmdWord := BitVec 24

/-- The 3-bit index `RADDR` of the register read port (R21). -/
abbrev RegIndex := BitVec 3

end Sys2Proof
end

