-- ==== Sys2Proof/Syntax.lean ====
section
/-! DEFINITION. The instructions: one constructor per row of spec/opcode_table.json (spec/30_encoding.md R72), with the operands
of its form (R71): nothing, one byte, two wire bytes in arrival order, or one 16-bit value. -/

namespace Sys2Proof

/-- A command of the block (R72). -/
inductive Instr where
  /-- NOP (R140). -/
  | nop
  /-- CRC.INIT: start a new span (R103). -/
  | crcInit
  /-- CRC.BYTE b: feed one byte of the span (R104). -/
  | crcByte (b : Byte)
  /-- CRC.CHECK c0, c1: compare with the received CRC, `c0` the first byte on the wire (R105). -/
  | crcCheck (c0 c1 : Byte)
  /-- ST.DECODE es: decode a transfer-status byte (R120). -/
  | stDecode (es : Byte)
  /-- TA.LOAD a: load the expected address (R122). -/
  | taLoad (a : Half)
  /-- TA.CHECK ta1, ta2: compare the address echo, `ta1` the first byte on the wire (R123). -/
  | taCheck (ta1 ta2 : Byte)
  /-- FLAGS.CLEAR: clear the verdict flags (R141). -/
  | flagsClear
  /-- SRESET: soft reset (R142). -/
  | sreset
  deriving DecidableEq, Repr

end Sys2Proof
end

