-- ==== Sys2Proof/Decode.lean ====
section
/-! DEFINITION. The command word CMD24 (spec/30_encoding.md R70), its decoder (R71 to R74) and, after it, the encoder written from
the same tables. The decoder is total and rejects by name; the conditions on state and configuration (R73, R150 conditions 5 and
6) are checked by the meanings, not here. -/

namespace Sys2Proof

/-- RSV = w[23:20], must be 0 (R70). -/
def rsvField (w : CmdWord) : BitVec 4 := w.extractLsb' 20 4

/-- OP = w[19:16], the operation code (R70). -/
def opField (w : CmdWord) : BitVec 4 := w.extractLsb' 16 4

/-- D1 = w[15:8], the second operand byte (R70). -/
def d1Field (w : CmdWord) : Byte := w.extractLsb' 8 8

/-- D0 = w[7:0], the first operand byte (R70). -/
def d0Field (w : CmdWord) : Byte := w.extractLsb' 0 8

/-- The operand of the form `imm16`, D1 : D0 (R71). -/
def imm16Field (w : CmdWord) : Half := d1Field w ++ d0Field w

/-- Why a word is no command, whatever the state and the configuration: R150's conditions 1 to 4. The block records no cause
(R152), so the name has no effect on the machine (log entry 6). -/
inductive IllegalWord where
  /-- RSV is not 0 (R150 condition 1). -/
  | reservedBitsSet
  /-- OP is in 0x8 to 0xE (R150 condition 2). -/
  | reservedOp (op : BitVec 4)
  /-- A command without operands has a nonzero D1 or D0 (R150 condition 3). -/
  | operandsNotZero (d1 d0 : Byte)
  /-- A one-byte command has a nonzero D1 (R150 condition 4). -/
  | d1NotZero (d1 : Byte)
  deriving DecidableEq, Repr

/-- The operand form `none`: D1 and D0 must be 0x00 (R71). -/
def formNone (i : Instr) (d1 d0 : Byte) : Except IllegalWord Instr :=
  if d1 = 0#8 ∧ d0 = 0#8 then .ok i else .error (.operandsNotZero d1 d0)

/-- The operand form `imm8`: b = D0, and D1 must be 0x00 (R71). -/
def formImm8 (mk : Byte → Instr) (d1 d0 : Byte) : Except IllegalWord Instr :=
  if d1 = 0#8 then .ok (mk d0) else .error (.d1NotZero d1)

/-- The operation codes and their forms: R72's opcode map. -/
def decodeOp (op : BitVec 4) (d1 d0 : Byte) : Except IllegalWord Instr :=
  match op.toNat with
  | 0x0 => formNone .nop d1 d0
  | 0x1 => formNone .crcInit d1 d0
  | 0x2 => formImm8 .crcByte d1 d0
  | 0x3 => .ok (.crcCheck d0 d1)
  | 0x4 => formImm8 .stDecode d1 d0
  | 0x5 => .ok (.taLoad (d1 ++ d0))
  | 0x6 => .ok (.taCheck d0 d1)
  | 0x7 => formNone .flagsClear d1 d0
  | 0xF => formNone .sreset d1 d0
  | _ => .error (.reservedOp op)

/-- The instruction a command word stands for, or why it is none (R72 to R74). -/
def decode (w : CmdWord) : Except IllegalWord Instr :=
  if rsvField w = 0#4 then decodeOp (opField w) (d1Field w) (d0Field w) else .error .reservedBitsSet

/-- A command's operation code (R72). -/
def Instr.op : Instr → BitVec 4
  | .nop => 0x0#4
  | .crcInit => 0x1#4
  | .crcByte _ => 0x2#4
  | .crcCheck _ _ => 0x3#4
  | .stDecode _ => 0x4#4
  | .taLoad _ => 0x5#4
  | .taCheck _ _ => 0x6#4
  | .flagsClear => 0x7#4
  | .sreset => 0xF#4

/-- A command's operand bytes D1 and D0 (R71, R72). -/
def Instr.operandBytes : Instr → Byte × Byte
  | .nop => (0x00#8, 0x00#8)
  | .crcInit => (0x00#8, 0x00#8)
  | .crcByte b => (0x00#8, b)
  | .crcCheck c0 c1 => (c1, c0)
  | .stDecode es => (0x00#8, es)
  | .taLoad a => (a.extractLsb' 8 8, a.extractLsb' 0 8)
  | .taCheck ta1 ta2 => (ta2, ta1)
  | .flagsClear => (0x00#8, 0x00#8)
  | .sreset => (0x00#8, 0x00#8)

/-- The word of fields RSV, OP, D1 and D0 (R70). -/
def packWord (rsv op : BitVec 4) (d1 d0 : Byte) : CmdWord :=
  (rsv ++ op ++ d1 ++ d0).cast (by decide)

/-- A command's word (R70, R72): RSV is 0. -/
def encode (i : Instr) : CmdWord :=
  packWord 0#4 i.op i.operandBytes.1 i.operandBytes.2

/-- One row of R72's table of matches and masks. -/
structure OpcodeRow where
  mnemonic : String
  value : CmdWord
  mask : CmdWord
  deriving DecidableEq, Repr

/-- R72's table of matches and masks, row by row. The decoder above reads fields and forms instead; that the two accept the same
words is a statement. -/
def opcodeRows : List OpcodeRow :=
  [ ⟨"NOP", 0x000000#24, 0xFFFFFF#24⟩,
    ⟨"CRC.INIT", 0x010000#24, 0xFFFFFF#24⟩,
    ⟨"CRC.BYTE", 0x020000#24, 0xFFFF00#24⟩,
    ⟨"CRC.CHECK", 0x030000#24, 0xFF0000#24⟩,
    ⟨"ST.DECODE", 0x040000#24, 0xFFFF00#24⟩,
    ⟨"TA.LOAD", 0x050000#24, 0xFF0000#24⟩,
    ⟨"TA.CHECK", 0x060000#24, 0xFF0000#24⟩,
    ⟨"FLAGS.CLEAR", 0x070000#24, 0xFFFFFF#24⟩,
    ⟨"SRESET", 0x0F0000#24, 0xFFFFFF#24⟩ ]

/-- A word matches a row under the row's mask (R72). -/
def OpcodeRow.accepts (r : OpcodeRow) (w : CmdWord) : Bool :=
  w &&& r.mask == r.value

/-- The row of a command: its mnemonic as R72 spells it. -/
def Instr.mnemonic : Instr → String
  | .nop => "NOP"
  | .crcInit => "CRC.INIT"
  | .crcByte _ => "CRC.BYTE"
  | .crcCheck _ _ => "CRC.CHECK"
  | .stDecode _ => "ST.DECODE"
  | .taLoad _ => "TA.LOAD"
  | .taCheck _ _ => "TA.CHECK"
  | .flagsClear => "FLAGS.CLEAR"
  | .sreset => "SRESET"

/-- A command word from its lowest `nbits` bits, the bits above them 0 (log entry 10). -/
def tableWord (nbits w : Nat) : CmdWord :=
  BitVec.ofNat 24 (w % 2 ^ nbits)

/-- What the decoder reads from an instruction whose bits are `w`, numbered as spec/opcode_table.json numbers them. A command is
exactly one 24-bit word with no byte serialisation (R70), so the bits of `w` are the word's own; more than 24 bits are no command. -/
def decodeTableWord (nbits w : Nat) : Option Instr :=
  if nbits ≤ 24 then (decode (tableWord nbits w)).toOption else none

end Sys2Proof
end

