-- ==== Sys2Proof/Config.lean ====
section
/-! DEFINITION. The block's configuration: what is fixed for a given block and is not state (spec/10_state.md R20), the five CRC
parameters (spec/00_scope.md R2) and PARSER_PRESENT (R3). Every meaning is a function of a `Config`; `Config.hw` is this hardware. -/

namespace Sys2Proof

/-- The implementation parameters (R2, R3). -/
structure Config where
  /-- `CRC_POLY`: the generator polynomial in normal (MSB-first) form, the x^16 term implicit. -/
  crcPoly : Half
  /-- `CRC_INIT`: what reset and CRC.INIT load into the accumulator, as the accumulator holds it. -/
  crcInit : Half
  /-- `CRC_REFLECTED`: true: bytes enter LSB first and the accumulator shifts right; false: MSB first, shift left. -/
  crcReflected : Bool
  /-- `CRC_XOROUT`: XORed into the accumulator to form the transmitted CRC value. -/
  crcXorOut : Half
  /-- `CRC_WIRE_LSB_FIRST`: true: the low byte of the transmitted CRC value is the first byte on the wire. -/
  crcWireLsbFirst : Bool
  /-- `PARSER_PRESENT`: whether the optional scratchpad-frame parser exists (R3). -/
  parserPresent : Bool
  deriving DecidableEq, Repr

/-- This hardware's configuration: the last column of R2's table and R3's default. The values are the spec's own choice
(92 D6, D7, D14), so every CRC value proved of `Config.hw` rests on them (UNSAFE, log entry 7). -/
def Config.hw : Config where
  crcPoly := 0x8005#16
  crcInit := 0x0000#16
  crcReflected := true
  crcXorOut := 0xFFFF#16
  crcWireLsbFirst := true
  parserPresent := true

end Sys2Proof
end

