-- ==== Sys2Proof/Machine/Operands.lean ====
section
/-! DEFINITION. How operand bytes become 16-bit values, and the reverse: the byte orders of spec/20_memory.md (R52 to R54) and
spec/40_crc_engine.md R102. The operand forms of a command word are Decode's. -/

namespace Sys2Proof.Machine

/-- `wire_value(x0, x1)`: the 16-bit value of two CRC bytes, `x0` first on the wire (R102, R54). -/
def wireValue (c : Config) (x0 x1 : Byte) : Half :=
  if c.crcWireLsbFirst then x1 ++ x0 else x0 ++ x1

/-- `v[7:0]`. -/
def lowByte (v : Half) : Byte := v.extractLsb' 0 8

/-- `v[15:8]`. -/
def highByte (v : Half) : Byte := v.extractLsb' 8 8

/-- `wire_bytes(v)`: the two bytes of a CRC value, in the order they go onto the wire (R102, R54). -/
def wireBytes (c : Config) (v : Half) : Byte × Byte :=
  if c.crcWireLsbFirst then (lowByte v, highByte v) else (highByte v, lowByte v)

/-- The echoed address `TA2 : TA1` of two echo bytes in received order (R53). -/
def echoAddress (ta1 ta2 : Byte) : Half := ta2 ++ ta1

/-- A target address as a frame carries it, low byte first (R52). -/
def addressBytes (a : Half) : List Byte := [lowByte a, highByte a]

end Sys2Proof.Machine
end

