-- ==== Sys2Proof/Machine/Crc.lean ====
section
/-! DEFINITION. The CRC function (spec/40_crc_engine.md R100, R101, R106, R107), for any parameters. -/

namespace Sys2Proof.Machine

/-- `reflect_16(v)`: bit i goes to bit 15-i (spec/00_scope.md R6). -/
def reflect16 (v : Half) : Half := v.reverse

/-- One turn of R100's loop, reflected branch: shift right, and XOR the reflected polynomial when bit 0 was 1. -/
def crcShiftRight (c : Config) (v : Half) : Half :=
  if v.getLsbD 0 then (v >>> 1) ^^^ reflect16 c.crcPoly else v >>> 1

/-- One turn of R100's loop, normal branch: shift left, and XOR the polynomial when bit 15 was 1. -/
def crcShiftLeft (c : Config) (v : Half) : Half :=
  if v.getLsbD 15 then (v <<< 1) ^^^ c.crcPoly else v <<< 1

/-- `n` turns of a loop body. -/
def turns (body : Half → Half) : Nat → Half → Half
  | 0, v => v
  | n + 1, v => turns body n (body v)

/-- `crc_update(acc, b)` (R100). -/
def crcUpdate (c : Config) (acc : Half) (b : Byte) : Half :=
  if c.crcReflected then turns (crcShiftRight c) 8 (acc ^^^ b.setWidth 16)
  else turns (crcShiftLeft c) 8 (acc ^^^ (b.setWidth 16 <<< 8))

/-- `crc_out(acc)`: the CRC value of an accumulator, as a transmitter sends it (R101). -/
def crcOut (c : Config) (acc : Half) : Half := acc ^^^ c.crcXorOut

/-- The accumulator after bytes are fed to it one by one, in wire order (R104, R106). -/
def crcFeed (c : Config) (acc : Half) (span : List Byte) : Half := span.foldl (crcUpdate c) acc

/-- `crc_span(span)` (R106). -/
def crcSpan (c : Config) (span : List Byte) : Half := crcFeed c c.crcInit span

/-- The generator role (R107): the two CRC bytes a transmitter appends to a span, in wire order. -/
def appendedCrc (c : Config) (span : List Byte) : Byte × Byte := wireBytes c (crcOut c (crcSpan c span))

end Sys2Proof.Machine
end

