-- ==== Sys2Proof/Machine/State.lean ====
section
/-! DEFINITION. The machine's state as plain data: the spec's whole tuple (spec/10_state.md R20, "The block has no hidden state", R35),
and beside it the host's side of the two ports. The reset state (spec/70_reset_and_hazards.md R171). The reasons a step can stop:
none, for the spec lets nothing stop the block (spec/60_exceptions.md R154). -/

namespace Sys2Proof.Machine

/-- The block's whole architectural state: the tuple S of R20. The STATUS flags are held one by one, as R20 lists them; the 8-bit
STATUS word of R25 is computed from them. -/
structure Block where
  /-- `ACC`: the CRC accumulator (R22). -/
  acc : Half
  /-- `RX_CRC`: the received CRC value of the last CRC.CHECK (R24). -/
  rxCrc : Half
  /-- `ES`: the last transfer-status byte given to ST.DECODE (R27). -/
  es : Byte
  /-- `TA_ECHO`: the last address echo given to TA.CHECK (R28). -/
  taEcho : Half
  /-- `EXP_ADDR`: the originally requested address (R29). -/
  expAddr : Half
  /-- STATUS bit 0, `CRC_OK` (R25). -/
  crcOk : Bool
  /-- STATUS bit 1, `CRC_VALID` (R25). -/
  crcValid : Bool
  /-- STATUS bit 2, `ST_PASS` (R25). -/
  stPass : Bool
  /-- STATUS bit 3, `ST_VALID` (R25). -/
  stValid : Bool
  /-- STATUS bit 4, `ADDR_OK` (R25). -/
  addrOk : Bool
  /-- STATUS bit 5, `ADDR_VALID` (R25). -/
  addrValid : Bool
  /-- STATUS bit 6, `EXP_VALID` (R25). -/
  expValid : Bool
  /-- STATUS bit 7, `ILL`, sticky (R25, R153). -/
  ill : Bool
  deriving DecidableEq, Repr

/-- What the one host can do to the block (R21, R56, R70, R170). -/
inductive HostEvent where
  /-- Present a command word on the command port (R70). -/
  | command (w : CmdWord)
  /-- Read the register at an index of the read port (R21). -/
  | read (raddr : RegIndex)
  /-- Power-on reset: the block is powered up, or its reset input is asserted (R170). -/
  | powerOnReset
  deriving DecidableEq, Repr

/-- The machine: the block, and the MODEL'S OWN two fields for the host's side of its ports. -/
structure State extends Block where
  /-- What the host does next, oldest first: the total order of R56. Each step consumes one event (R60). DESIGN CHOICE, safe: the
  block itself buffers nothing (R35); log entry 1. -/
  inputs : List HostEvent
  /-- What the read port has answered so far, oldest first: (RADDR, RDATA). The host's record, not block state, which no read
  changes (R21). DESIGN CHOICE, safe; log entry 2. -/
  reads : List (RegIndex × Half)
  deriving DecidableEq, Repr

/-- The reset value of every field of the block (R171), for a block of configuration `c`. -/
def Block.reset (c : Config) : Block where
  acc := c.crcInit
  rxCrc := 0x0000#16
  es := 0x00#8
  taEcho := 0x0000#16
  expAddr := 0x0000#16
  crcOk := false
  crcValid := false
  stPass := false
  stValid := false
  addrOk := false
  addrValid := false
  expValid := false
  ill := false

/-- A block of configuration `c` right after power-on reset (R170, R171), before the host has done anything. -/
def State.resetIn (c : Config) : State where
  toBlock := Block.reset c
  inputs := []
  reads := []

/-- This hardware right after reset (R171): no field is left unspecified. -/
def State.reset : State := State.resetIn Config.hw

/-- The reasons a step can stop with a fault: NONE, so no one raises one. The block's only exceptional condition, the illegal
command, sets ILL and goes on (R151, R154); it has no trap (R156). Safe: nothing is cut off (log entry 5). -/
inductive Fault where
  deriving DecidableEq, Repr

/-- The reasons an instruction has no meaning. -/
inductive Refusal where
  /-- An arm of `exec` that has no meaning yet. Raised by no arm: every command has its meaning. Safe: the model stops. -/
  | notModelled (mnemonic : String)
  deriving DecidableEq, Repr

end Sys2Proof.Machine
end

