-- ==== Sys2Proof/Machine/Flags.lean ====
section
/-! DEFINITION. Every flag computation: the STATUS word (spec/10_state.md R25), the pass-mask check (spec/41_frame_parser.md R121), the CRC
verdict (spec/40_crc_engine.md R105) and the echo verdict (R123). -/

namespace Sys2Proof.Machine

/-- `ST_MASK`, a named constant and not a parameter (R4). -/
def stMask : Byte := 0x07#8

/-- `ST_PASS_VALUE`, a named constant and not a parameter (R4). -/
def stPassValue : Byte := 0x07#8

/-- `st_pass(es)`: the pass-mask check (R121). -/
def stPassCheck (es : Byte) : Bool := es &&& stMask == stPassValue

/-- CRC.CHECK's verdict: the accumulator's CRC value against the received one (R105). -/
def crcMatches (c : Config) (acc rx : Half) : Bool := crcOut c acc == rx

/-- TA.CHECK's verdict: the echo against the expected address, all 16 bits (R123). -/
def echoMatches (echo expected : Half) : Bool := echo == expected

/-- The 8-bit STATUS word: bit 0 CRC_OK up to bit 7 ILL (R25). -/
def Block.status (b : Block) : Byte :=
  BitVec.ofBool b.ill ++ BitVec.ofBool b.expValid ++ BitVec.ofBool b.addrValid ++ BitVec.ofBool b.addrOk ++
    BitVec.ofBool b.stValid ++ BitVec.ofBool b.stPass ++ BitVec.ofBool b.crcValid ++ BitVec.ofBool b.crcOk

end Sys2Proof.Machine
end

