-- ==== Sys2Proof/Machine/Ops.lean ====
section
/-! DEFINITION. The named operations the meanings share: completing a command, the illegal command (the block's one exceptional
condition, spec/60_exceptions.md R151), dropping the CRC verdict and the echo verdict, the reset, and the register read port
(spec/10_state.md R21, R30 to R32). The block has no memory and no trap to return from (R20, R156). -/

namespace Sys2Proof.Machine

/-- A command's outcome. -/
abbrev Result := Host.Outcome State Fault Refusal

/-- The illegal-command outcome, `raise IllegalCommand(w)`: `S.ILL <- 1`, no other field, and the block goes on (R151, R154). -/
def raiseIllegal (s : State) : Result := .next { s with ill := true }

/-- A parser command's first condition: without the parser it is illegal (R3, R150 condition 5). -/
def ifParser (c : Config) (run : Result) (s : State) : Result :=
  if c.parserPresent then run else raiseIllegal s

/-- A new accumulator value: a comparison made of the old one no longer shows as current (R103, R104, R177). -/
def State.setAcc (s : State) (v : Half) : State :=
  { s with acc := v, crcOk := false, crcValid := false }

/-- Every field of the block takes its reset value (R171). What the host does next and what it has read are not the block's. -/
def State.resetBlock (c : Config) (s : State) : State :=
  { s with toBlock := Block.reset c }

/-- `CONFIG`, hardwired: PARSER_PRESENT, CRC_REFLECTED and CRC_WIRE_LSB_FIRST in bits 0 to 2, the rest 0 (R30). -/
def configWord (c : Config) : Half :=
  (BitVec.ofBool c.crcWireLsbFirst ++ BitVec.ofBool c.crcReflected ++ BitVec.ofBool c.parserPresent).setWidth 16

/-- A parser register as the read port shows it: 0x0000 where the parser is absent (R31). -/
def parserView (c : Config) (v : Half) : Half :=
  if c.parserPresent then v else 0x0000#16

/-- `RegRead(raddr)`: the register read map (R32). All eight indexes are mapped (R21). -/
def regRead (c : Config) (b : Block) (raddr : RegIndex) : Half :=
  match raddr.toNat with
  | 0 => b.acc
  | 1 => crcOut c b.acc
  | 2 => b.status.setWidth 16
  | 3 => b.rxCrc
  | 4 => parserView c (b.es.setWidth 16)
  | 5 => parserView c b.taEcho
  | 6 => parserView c b.expAddr
  | _ => configWord c

/-- The host reads a register: the answer goes to the host's record, and no state of the block changes (R21). -/
def State.readPort (c : Config) (raddr : RegIndex) (s : State) : State :=
  { s with reads := s.reads ++ [(raddr, regRead c s.toBlock raddr)] }

/-- The step with no command, read or reset to serve: the block stands still, for only commands and reset write state (R33, R170;
DESIGN CHOICE, safe: the spec has no such step; log entry 4). -/
def idle (s : State) : Result := .next s

end Sys2Proof.Machine
end

