-- ==== Sys2Proof/Machine/Control.lean ====
section
/-! DEFINITION. The control commands (spec/42_control.md): NOP, FLAGS.CLEAR and SRESET, each for any configuration and then for this
hardware. They run whether or not the parser is present. -/

namespace Sys2Proof.Machine

/-- NOP (R140): no state is written. -/
def nopIn (_ : Config) (s : State) : Result := .next s

/-- FLAGS.CLEAR (R141): STATUS bits 0 to 5; EXP_VALID, ILL and every register are unchanged. -/
def flagsClearIn (_ : Config) (s : State) : Result :=
  .next { s with
    crcOk := false, crcValid := false, stPass := false, stValid := false, addrOk := false, addrValid := false }

/-- SRESET (R142): the reset of R171. -/
def sresetIn (c : Config) (s : State) : Result := .next (s.resetBlock c)

/-- NOP on this hardware (R140). -/
def execNop (s : State) : Result := nopIn Config.hw s

/-- FLAGS.CLEAR on this hardware (R141). -/
def execFlagsClear (s : State) : Result := flagsClearIn Config.hw s

/-- SRESET on this hardware (R142). -/
def execSreset (s : State) : Result := sresetIn Config.hw s

end Sys2Proof.Machine
end

