-- ==== Sys2Proof/Machine/CrcEngine.lean ====
section
/-! DEFINITION. The CRC engine's commands (spec/40_crc_engine.md): CRC.INIT, CRC.BYTE and CRC.CHECK, each for any configuration and then
for this hardware. -/

namespace Sys2Proof.Machine

/-- CRC.INIT (R103). -/
def crcInitIn (c : Config) (s : State) : Result := .next (s.setAcc c.crcInit)

/-- CRC.BYTE b (R104). -/
def crcByteIn (c : Config) (b : Byte) (s : State) : Result := .next (s.setAcc (crcUpdate c s.acc b))

/-- CRC.CHECK c0, c1 (R105). ACC is not changed, so the span can be checked again or extended. -/
def crcCheckIn (c : Config) (c0 c1 : Byte) (s : State) : Result :=
  let rx := wireValue c c0 c1
  .next { s with rxCrc := rx, crcOk := crcMatches c s.acc rx, crcValid := true }

/-- CRC.INIT on this hardware (R103). -/
def execCrcInit (s : State) : Result := crcInitIn Config.hw s

/-- CRC.BYTE on this hardware (R104). -/
def execCrcByte (b : Byte) (s : State) : Result := crcByteIn Config.hw b s

/-- CRC.CHECK on this hardware (R105). -/
def execCrcCheck (c0 c1 : Byte) (s : State) : Result := crcCheckIn Config.hw c0 c1 s

end Sys2Proof.Machine
end

