-- ==== Sys2Proof/Machine/FrameParser.lean ====
section
/-! DEFINITION. The scratchpad-frame parser's commands (spec/41_frame_parser.md): ST.DECODE, TA.LOAD and TA.CHECK, each for any
configuration (without the parser it is illegal, R150 condition 5) and then for this hardware. None of them touches the CRC. -/

namespace Sys2Proof.Machine

/-- ST.DECODE es (R120). All 8 bits are stored; only bits [2:0] are interpreted (R121). -/
def stDecodeIn (c : Config) (es : Byte) (s : State) : Result :=
  ifParser c (.next { s with es := es, stPass := stPassCheck es, stValid := true }) s

/-- TA.LOAD a (R122). Any earlier echo verdict was against another expected address. -/
def taLoadIn (c : Config) (a : Half) (s : State) : Result :=
  ifParser c (.next { s with expAddr := a, expValid := true, addrOk := false, addrValid := false }) s

/-- TA.CHECK's effect once an expected address is held (R123): the verdict uses the new TA_ECHO. -/
def State.checkEcho (s : State) (echo : Half) : State :=
  { s with taEcho := echo, addrOk := echoMatches echo s.expAddr, addrValid := true }

/-- TA.CHECK ta1, ta2 (R123). Illegal while EXP_VALID is 0 (R150 condition 6). -/
def taCheckIn (c : Config) (ta1 ta2 : Byte) (s : State) : Result :=
  ifParser c (if s.expValid then .next (s.checkEcho (echoAddress ta1 ta2)) else raiseIllegal s) s

/-- ST.DECODE on this hardware (R120). -/
def execStDecode (es : Byte) (s : State) : Result := stDecodeIn Config.hw es s

/-- TA.LOAD on this hardware (R122). -/
def execTaLoad (a : Half) (s : State) : Result := taLoadIn Config.hw a s

/-- TA.CHECK on this hardware (R123). -/
def execTaCheck (ta1 ta2 : Byte) (s : State) : Result := taCheckIn Config.hw ta1 ta2 s

end Sys2Proof.Machine
end

