-- ==== Sys2Proof/Machine/Dispatch.lean ====
section
/-! DEFINITION. What each command does on this hardware: one arm per constructor of Instr, each one call of its meaning. -/

namespace Sys2Proof.Machine

def exec (i : Instr) (s : State) : Host.Outcome State Fault Refusal :=
  match i with
  | .nop => Sys2Proof.Machine.execNop s
  | .crcInit => Sys2Proof.Machine.execCrcInit s
  | .crcByte b => Sys2Proof.Machine.execCrcByte b s
  | .crcCheck c0 c1 => Sys2Proof.Machine.execCrcCheck c0 c1 s
  | .stDecode es => Sys2Proof.Machine.execStDecode es s
  | .taLoad a => Sys2Proof.Machine.execTaLoad a s
  | .taCheck ta1 ta2 => Sys2Proof.Machine.execTaCheck ta1 ta2 s
  | .flagsClear => Sys2Proof.Machine.execFlagsClear s
  | .sreset => Sys2Proof.Machine.execSreset s

end Sys2Proof.Machine
end

