-- ==== Sys2Proof/Machine/Port.lean ====
section
/-! DEFINITION. The block's two ports and its reset input, and the block in any configuration. A command word is decoded and run, or
is an illegal command (spec/30_encoding.md R73); a read answers from the map of spec/10_state.md R32; power-on reset is R171's. Each is
one atomic step (spec/20_memory.md R55). -/

namespace Sys2Proof.Machine

/-- What each command does in a block of configuration `c`: R72's semantics column. `exec` is this at `Config.hw`. -/
def execIn (c : Config) (i : Instr) (s : State) : Result :=
  match i with
  | .nop => nopIn c s
  | .crcInit => crcInitIn c s
  | .crcByte b => crcByteIn c b s
  | .crcCheck c0 c1 => crcCheckIn c c0 c1 s
  | .stDecode es => stDecodeIn c es s
  | .taLoad a => taLoadIn c a s
  | .taCheck ta1 ta2 => taCheckIn c ta1 ta2 s
  | .flagsClear => flagsClearIn c s
  | .sreset => sresetIn c s

/-- A command word on the command port: the command it stands for runs, or it is an illegal command (R73, R150). -/
def issueWith (run : Instr → State → Result) (w : CmdWord) (s : State) : Result :=
  match decode w with
  | .ok i => run i s
  | .error _ => raiseIllegal s

/-- A command word presented to this hardware. -/
def issue (w : CmdWord) (s : State) : Result := issueWith exec w s

/-- A command word presented to a block of configuration `c`. -/
def issueIn (c : Config) (w : CmdWord) (s : State) : Result := issueWith (execIn c) w s

/-- One event of the host's (R21, R70, R170). -/
def serveWith (c : Config) (run : Instr → State → Result) (e : HostEvent) (s : State) : Result :=
  match e with
  | .command w => issueWith run w s
  | .read raddr => .next (s.readPort c raddr)
  | .powerOnReset => .next (s.resetBlock c)

/-- One step: the host's next event is taken and served; with none, the block stands still. -/
def stepWith (c : Config) (run : Instr → State → Result) (s : State) : Result :=
  match s.inputs with
  | [] => idle s
  | e :: rest => serveWith c run e { s with inputs := rest }

/-- One step of a block of configuration `c`. `step` is this at `Config.hw`. -/
def stepIn (c : Config) (s : State) : Result := stepWith c (execIn c) s

/-- The host presents these commands next, in order, before whatever else it does. -/
def State.presenting (s : State) (is : List Instr) : State :=
  { s with inputs := is.map (fun i => HostEvent.command (encode i)) ++ s.inputs }

/-- The host's next event is the instruction whose bits are `w` (log entry 10); more than 24 bits are no command word. -/
def State.presentTableWord (s : State) (nbits w : Nat) : State :=
  if nbits ≤ 24 then { s with inputs := .command (tableWord nbits w) :: s.inputs } else s

end Sys2Proof.Machine
end

