-- ==== Sys2Proof/Machine/Step.lean ====
section
/-! DEFINITION. One step of this hardware, and how the host's checks put an instruction where the next step takes it. -/

namespace Sys2Proof.Machine

/-- One step of this hardware: the host's next event is served, atomically (spec/20_memory.md R55, R56, R60). -/
def step (s : State) : Host.Outcome State Fault Refusal := stepWith Config.hw exec s

/-- `s` with the instruction whose bits are `w` as the host's next event, so that the next step runs exactly it. -/
def State.withFetchWord (s : State) (nbits w : Nat) : State := s.presentTableWord nbits w

end Sys2Proof.Machine
end

