-- ==== Sys2Proof/WellFormed.lean ====
section
/-! DEFINITION. Which instructions a configured block has. The operands of an `Instr` carry their widths, so no operand value is
ill formed (spec/30_encoding.md R71); the one check left is that the parser's commands exist only where PARSER_PRESENT is true
(spec/00_scope.md R3, spec/30_encoding.md R73). -/

namespace Sys2Proof

/-- Whether a command belongs to the scratchpad-frame parser (R3). -/
def Instr.isParser : Instr → Bool
  | .nop => false
  | .crcInit => false
  | .crcByte _ => false
  | .crcCheck _ _ => false
  | .stDecode _ => true
  | .taLoad _ => true
  | .taCheck _ _ => true
  | .flagsClear => false
  | .sreset => false

/-- The instruction exists in a block of configuration `c` (R3): a parser command needs the parser. -/
def Instr.wellFormedIn (c : Config) (i : Instr) : Bool :=
  c.parserPresent || !i.isParser

/-- The instruction exists in this hardware's block. -/
def Instr.wellFormed (i : Instr) : Bool :=
  i.wellFormedIn Config.hw

end Sys2Proof
end

