-- ==== Sys2Proof/Machine/Frames.lean ====
section
/-! DEFINITION. The bytes on the single-wire bus that a CRC covers (spec/30_encoding.md Part B, R80 to R82) and the pseudo-instructions with
their expansions (R76). A pseudo-instruction means exactly what its expansion means. -/

namespace Sys2Proof.Machine

/-- The read-memory command byte of the bus (R80): data of CRC.BYTE, never a block command. -/
def busReadMemory : Byte := 0xF0#8

/-- The write-scratchpad command byte of the bus (R80). -/
def busWriteScratchpad : Byte := 0x0F#8

/-- The read-scratchpad command byte of the bus (R80). -/
def busReadScratchpad : Byte := 0xAA#8

/-- The copy-scratchpad command byte of the bus (R80). -/
def busCopyScratchpad : Byte := 0x55#8

/-- `span_WR(a, p1..pn)`: what the CRC of a write-scratchpad frame covers (R81); the address goes low byte first (R52). -/
def spanWrite (a : Half) (payload : List Byte) : List Byte :=
  busWriteScratchpad :: addressBytes a ++ payload

/-- `span_RD(ta1, ta2, es, p1..pn)`: what the CRC of a read-scratchpad response covers, in received order (R82). -/
def spanRead (ta1 ta2 es : Byte) (payload : List Byte) : List Byte :=
  busReadScratchpad :: ta1 :: ta2 :: es :: payload

/-- The pseudo-instructions (R76). -/
inductive Pseudo where
  /-- `CRC.SPAN [b1, ..., bk]`. -/
  | crcSpan (bytes : List Byte)
  /-- `CRC.VERIFY [b1, ..., bk], c0, c1`. -/
  | crcVerify (bytes : List Byte) (c0 c1 : Byte)
  /-- `SP.WRCHK a, [p1, ..., pn], c0, c1`. -/
  | spWrchk (a : Half) (payload : List Byte) (c0 c1 : Byte)
  /-- `SP.RDCHK a, ta1, ta2, es, [p1, ..., pn], c0, c1`. -/
  | spRdchk (a : Half) (ta1 ta2 es : Byte) (payload : List Byte) (c0 c1 : Byte)
  deriving DecidableEq, Repr

/-- A frame carries 1 to 8 payload bytes (R5, R76). -/
def payloadFits (payload : List Byte) : Bool := 1 ≤ payload.length && payload.length ≤ 8

/-- R76's notes: n is 1 to 8 for the two scratchpad checks, and SP.RDCHK needs the parser. -/
def Pseudo.wellFormedIn (c : Config) : Pseudo → Bool
  | .crcSpan _ => true
  | .crcVerify _ _ _ => true
  | .spWrchk _ payload _ _ => payloadFits payload
  | .spRdchk _ _ _ _ payload _ _ => payloadFits payload && c.parserPresent

/-- The commands of `CRC.SPAN` (R76). -/
def spanCommands (bytes : List Byte) : List Instr := .crcInit :: bytes.map .crcByte

/-- The commands of `CRC.VERIFY` (R76). -/
def verifyCommands (bytes : List Byte) (c0 c1 : Byte) : List Instr := spanCommands bytes ++ [.crcCheck c0 c1]

/-- A pseudo-instruction's expansion (R76). -/
def Pseudo.expand : Pseudo → List Instr
  | .crcSpan bytes => spanCommands bytes
  | .crcVerify bytes c0 c1 => verifyCommands bytes c0 c1
  | .spWrchk a payload c0 c1 => verifyCommands (spanWrite a payload) c0 c1
  | .spRdchk a ta1 ta2 es payload c0 c1 =>
    .taLoad a :: verifyCommands (spanRead ta1 ta2 es payload) c0 c1 ++ [.stDecode es, .taCheck ta1 ta2]

end Sys2Proof.Machine
end

