-- ==== Sys2Proof/Machine/Assembler.lean ====
section
/-! DEFINITION. The assembler of spec/30_encoding.md R75, with the pseudo-instructions of R76: one command per line, upper-case mnemonics,
operands separated by commas, numbers decimal or hexadecimal with 0x, a comment from ; to the end of the line. An operand out of
its range is rejected, never truncated. What R75 leaves open of the text's layout is log entry 13. -/

namespace Sys2Proof.Machine

/-- The pieces of a line. -/
inductive Token where
  | word (text : List Char)
  | comma
  | openBracket
  | closeBracket
  deriving DecidableEq, Repr

/-- An operand as written: a number, or the byte list of a pseudo-instruction. -/
inductive Operand where
  | number (n : Nat)
  | list (ns : List Nat)
  deriving DecidableEq, Repr

/-- A line without its comment (R75). -/
def dropComment (line : List Char) : List Char := line.takeWhile (· != ';')

/-- A word that has just ended, if there was one. -/
def endWord (text : List Char) : List Token := if text.isEmpty then [] else [.word text]

/-- The pieces of a line; `text` is the word read so far. -/
def tokens (text : List Char) : List Char → List Token
  | [] => endWord text
  | ch :: rest =>
    if ch.isWhitespace then endWord text ++ tokens [] rest
    else if ch == ',' then endWord text ++ .comma :: tokens [] rest
    else if ch == '[' then endWord text ++ .openBracket :: tokens [] rest
    else if ch == ']' then endWord text ++ .closeBracket :: tokens [] rest
    else tokens (text ++ [ch]) rest

/-- The value of a digit, in either letter case. -/
def digitValue (ch : Char) : Option Nat :=
  if '0'.toNat ≤ ch.toNat ∧ ch.toNat ≤ '9'.toNat then some (ch.toNat - '0'.toNat)
  else if 'a'.toNat ≤ ch.toNat ∧ ch.toNat ≤ 'f'.toNat then some (ch.toNat - 'a'.toNat + 10)
  else if 'A'.toNat ≤ ch.toNat ∧ ch.toNat ≤ 'F'.toNat then some (ch.toNat - 'A'.toNat + 10)
  else none

/-- The number of digits in a base, `n` being what is read so far. -/
def digits (base : Nat) (n : Nat) : List Char → Option Nat
  | [] => some n
  | ch :: rest =>
    match digitValue ch with
    | some d => if d < base then digits base (n * base + d) rest else none
    | none => none

/-- A number: hexadecimal with `0x`, or decimal (R75). -/
def number : List Char → Option Nat
  | [] => none
  | ['0', 'x'] => none
  | '0' :: 'x' :: rest => digits 16 0 rest
  | text => digits 10 0 text

/-- Where a line's operands stand: at their start, after a comma, after an operand, and the same inside a byte list. -/
inductive OperandPlace where
  | start
  | afterComma
  | afterOperand
  | listStart
  | listAfterComma (ns : List Nat)
  | listAfterNumber (ns : List Nat)
  deriving DecidableEq, Repr

/-- The operands of a line, separated by commas (R75); a byte list stands in brackets and may be empty (R76). -/
def operands (place : OperandPlace) (done : List Operand) : List Token → Option (List Operand)
  | [] =>
    match place with
    | .start => some done
    | .afterOperand => some done
    | _ => none
  | t :: rest =>
    match place, t with
    | .start, .word w | .afterComma, .word w => (number w).bind fun n => operands .afterOperand (done ++ [.number n]) rest
    | .start, .openBracket | .afterComma, .openBracket => operands .listStart done rest
    | .afterOperand, .comma => operands .afterComma done rest
    | .listStart, .closeBracket => operands .afterOperand (done ++ [.list []]) rest
    | .listStart, .word w => (number w).bind fun n => operands (.listAfterNumber [n]) done rest
    | .listAfterComma ns, .word w => (number w).bind fun n => operands (.listAfterNumber (ns ++ [n])) done rest
    | .listAfterNumber ns, .comma => operands (.listAfterComma ns) done rest
    | .listAfterNumber ns, .closeBracket => operands .afterOperand (done ++ [.list ns]) rest
    | _, _ => none

/-- A byte operand: 0 to 255, and out of it rejected (R75). -/
def byteOperand (n : Nat) : Option Byte := if n ≤ 255 then some (BitVec.ofNat 8 n) else none

/-- A 16-bit operand: 0 to 65535, and out of it rejected (R75). -/
def halfOperand (n : Nat) : Option Half := if n ≤ 65535 then some (BitVec.ofNat 16 n) else none

/-- A command of one byte operand. -/
def oneByte (mk : Byte → Instr) (n : Nat) : Option (List Instr) := (byteOperand n).map fun b => [mk b]

/-- A command of two byte operands, in wire order. -/
def twoBytes (mk : Byte → Byte → Instr) (n m : Nat) : Option (List Instr) :=
  (byteOperand n).bind fun x0 => (byteOperand m).map fun x1 => [mk x0 x1]

/-- A pseudo-instruction's commands, if R76's notes allow it. -/
def expandIn (c : Config) (p : Pseudo) : Option (List Instr) := if p.wellFormedIn c then some p.expand else none

/-- A pseudo-instruction's byte list and its two CRC bytes. -/
def checkedSpan (mk : List Byte → Byte → Byte → Pseudo) (ns : List Nat) (n m : Nat) : Option Pseudo :=
  (ns.mapM byteOperand).bind fun bytes => (byteOperand n).bind fun c0 => (byteOperand m).map fun c1 => mk bytes c0 c1

/-- The commands of one line, by mnemonic and operands (R75, R76). -/
def lineCommands (c : Config) (mnemonic : List Char) (ops : List Operand) : Option (List Instr) :=
  if mnemonic = "NOP".toList then
    match ops with
    | [] => some [.nop]
    | _ => none
  else if mnemonic = "CRC.INIT".toList then
    match ops with
    | [] => some [.crcInit]
    | _ => none
  else if mnemonic = "CRC.BYTE".toList then
    match ops with
    | [.number b] => oneByte .crcByte b
    | _ => none
  else if mnemonic = "CRC.CHECK".toList then
    match ops with
    | [.number c0, .number c1] => twoBytes .crcCheck c0 c1
    | _ => none
  else if mnemonic = "ST.DECODE".toList then
    match ops with
    | [.number es] => oneByte .stDecode es
    | _ => none
  else if mnemonic = "TA.LOAD".toList then
    match ops with
    | [.number a] => (halfOperand a).map fun a => [.taLoad a]
    | _ => none
  else if mnemonic = "TA.CHECK".toList then
    match ops with
    | [.number ta1, .number ta2] => twoBytes .taCheck ta1 ta2
    | _ => none
  else if mnemonic = "FLAGS.CLEAR".toList then
    match ops with
    | [] => some [.flagsClear]
    | _ => none
  else if mnemonic = "SRESET".toList then
    match ops with
    | [] => some [.sreset]
    | _ => none
  else if mnemonic = "CRC.SPAN".toList then
    match ops with
    | [.list ns] => (ns.mapM byteOperand).bind fun bytes => expandIn c (.crcSpan bytes)
    | _ => none
  else if mnemonic = "CRC.VERIFY".toList then
    match ops with
    | [.list ns, .number c0, .number c1] => (checkedSpan .crcVerify ns c0 c1).bind (expandIn c)
    | _ => none
  else if mnemonic = "SP.WRCHK".toList then
    match ops with
    | [.number a, .list ns, .number c0, .number c1] =>
      (halfOperand a).bind fun a => (checkedSpan (.spWrchk a) ns c0 c1).bind (expandIn c)
    | _ => none
  else if mnemonic = "SP.RDCHK".toList then
    match ops with
    | [.number a, .number ta1, .number ta2, .number es, .list ns, .number c0, .number c1] =>
      (halfOperand a).bind fun a => (byteOperand ta1).bind fun ta1 => (byteOperand ta2).bind fun ta2 =>
        (byteOperand es).bind fun es => (checkedSpan (.spRdchk a ta1 ta2 es) ns c0 c1).bind (expandIn c)
    | _ => none
  else none

/-- One line of source: nothing on a blank line, else a mnemonic and its operands (R75). -/
def assembleLine (c : Config) (line : List Char) : Option (List Instr) :=
  match tokens [] (dropComment line) with
  | [] => some []
  | .word mnemonic :: rest => (operands .start [] rest).bind (lineCommands c mnemonic)
  | _ => none

/-- The lines of a source text; `line` is the line read so far. -/
def sourceLines (line : List Char) : List Char → List (List Char)
  | [] => [line]
  | ch :: rest => if ch == '\n' then line :: sourceLines [] rest else sourceLines (line ++ [ch]) rest

/-- The commands of a source text, one command (or pseudo-instruction) per line (R75, R76). -/
def assemble (c : Config) (source : List Char) : Option (List Instr) :=
  ((sourceLines [] source).mapM (assembleLine c)).map List.flatten

end Sys2Proof.Machine
end

