-- ==== Sys2Proof/Machine/Run.lean ====
section
/-! DEFINITION. Several steps of this hardware, one after another (spec/20_memory.md R57), and a list of commands presented and run
to its end: what a pseudo-instruction means (spec/30_encoding.md R76). -/

namespace Sys2Proof.Machine

/-- `n` steps, stopping where a step would stop. -/
def run : Nat → State → Result
  | 0, s => .next s
  | n + 1, s =>
    match step s with
    | .next t => run n t
    | .fault r => .fault r
    | .refused r => .refused r

/-- The host presents these commands next, and the machine takes a step for each. -/
def runCommands (is : List Instr) (s : State) : Result := run is.length (s.presenting is)

end Sys2Proof.Machine
end

