-- ==== Sys2Proof/Safety.lean ====
section
/-! DEFINITION. What counts as a sound state and a trustworthy verdict: the invariants of spec/10_state.md R34, the six conditions of an
illegal command as spec/60_exceptions.md R150 lists them, a verdict read with its VALID flag (spec/70_reset_and_hazards.md R177), and how
the flags feed the engine's error kinds (R159). The block decides none of the engine's errors. -/

namespace Sys2Proof

open Sys2Proof.Machine

/-- R34: a verdict is set only while its VALID flag is, and an echo verdict stands only while an expected address is held. -/
abbrev Machine.Block.Coherent (b : Machine.Block) : Prop :=
  (b.crcOk = true → b.crcValid = true) ∧ (b.stPass = true → b.stValid = true) ∧
    (b.addrOk = true → b.addrValid = true) ∧ (b.addrValid = true → b.expValid = true)

/-- What a block without the parser holds of the parser: STATUS bits 2 to 6 are 0 (R31, R25), and the fields of its registers, which do
not exist (R31), are kept at 0 (DESIGN CHOICE, safe; log entry 8). -/
abbrev Machine.Block.ParserClear (b : Machine.Block) : Prop :=
  b.stPass = false ∧ b.stValid = false ∧ b.addrOk = false ∧ b.addrValid = false ∧ b.expValid = false ∧
    b.es = 0x00#8 ∧ b.taEcho = 0x0000#16 ∧ b.expAddr = 0x0000#16

/-- R150: the word is an illegal command in a block of configuration `c` whose EXP_VALID flag is `expValid`. -/
abbrev IllegalCommand (c : Config) (expValid : Bool) (w : CmdWord) : Prop :=
  w.extractLsb' 20 4 ≠ 0x0#4
  ∨ (0x8 ≤ (w.extractLsb' 16 4).toNat ∧ (w.extractLsb' 16 4).toNat ≤ 0xE)
  ∨ (w.extractLsb' 16 4 ∈ [0x0#4, 0x1#4, 0x7#4, 0xF#4] ∧ w.extractLsb' 0 16 ≠ 0x0000#16)
  ∨ (w.extractLsb' 16 4 ∈ [0x2#4, 0x4#4] ∧ w.extractLsb' 8 8 ≠ 0x00#8)
  ∨ (w.extractLsb' 16 4 ∈ [0x4#4, 0x5#4, 0x6#4] ∧ c.parserPresent = false)
  ∨ (w.extractLsb' 16 4 = 0x6#4 ∧ expValid = false)

/-- The CRC verdict as a host may take it: only while CRC_VALID is 1 (R177). -/
def Machine.Block.crcVerdict (b : Machine.Block) : Option Bool := if b.crcValid then some b.crcOk else none

/-- The status verdict: only while ST_VALID is 1 (R177). -/
def Machine.Block.statusVerdict (b : Machine.Block) : Option Bool := if b.stValid then some b.stPass else none

/-- The echo verdict: only while ADDR_VALID is 1 (R177). -/
def Machine.Block.echoVerdict (b : Machine.Block) : Option Bool := if b.addrValid then some b.addrOk else none

/-- Every command since the last reset was legal (R153, R173). -/
abbrev Machine.Block.AllLegal (b : Machine.Block) : Prop := b.ill = false

/-- What the CRC commands work on (R178: parser commands do not feed it). -/
def Machine.Block.crcSide (b : Machine.Block) : Half × Half × Bool × Bool := (b.acc, b.rxCrc, b.crcOk, b.crcValid)

/-- What the parser commands work on (R178: CRC.BYTE does not feed it). -/
def Machine.Block.parserSide (b : Machine.Block) : Byte × Half × Half × Bool × Bool × Bool × Bool × Bool :=
  (b.es, b.taEcho, b.expAddr, b.stPass, b.stValid, b.addrOk, b.addrValid, b.expValid)

/-- After `SP.WRCHK`, the flags the engine reads as TransmissionError (R109, R159). -/
abbrev Machine.Block.TransmissionError (b : Machine.Block) : Prop := b.crcVerdict = some false

/-- After `SP.RDCHK`, the flags the engine reads as StagingMismatch (R124, R159); the payload part is outside the block. -/
abbrev Machine.Block.StagingMismatch (b : Machine.Block) : Prop :=
  b.crcVerdict = some true ∧ (b.echoVerdict = some false ∨ b.statusVerdict = some false)

/-- After `SP.RDCHK`, every check the block makes passes and no command was illegal (R124, R173). -/
abbrev Machine.Block.AcceptedResponse (b : Machine.Block) : Prop :=
  b.AllLegal ∧ b.crcVerdict = some true ∧ b.statusVerdict = some true ∧ b.echoVerdict = some true

end Sys2Proof
end

