-- ==== Sys2Proof/Certificates/Slice0/Obligations.lean ====
section
/-! DEFINITION. The statements for the provers: what the numbered rules of spec/ say a command, a word, a read, a reset or a step
does. An equation `exec i s = .next { s with … }` is at once the result, the completion and the frame: every field it does not
name is unchanged, the host's side of the ports among them. -/

open Sys2Proof Sys2Proof.Machine

/-! ## The command word -/

/-- R70 to R72: no bit of a command is dropped by its word. Every `Instr` is well formed on this hardware. -/
def Obligations.DecodeOfEncodeIsTheInstruction : Prop :=
  ∀ i : Instr, decode (encode i) = .ok i

/-- R70 to R73: each command has one word. -/
def Obligations.EncodeOfDecodeIsTheWord : Prop :=
  ∀ (w : CmdWord) (i : Instr), decode w = .ok i → encode i = w

/-- R72: a word decodes exactly when it matches a row under the row's mask, and to that row's command. -/
def Obligations.DecodeAcceptsExactlyTheOpcodeRows : Prop :=
  ∀ (w : CmdWord),
    (∀ i, decode w = .ok i → ∃ r ∈ opcodeRows, r.accepts w = true ∧ r.mnemonic = i.mnemonic) ∧
    (∀ r ∈ opcodeRows, r.accepts w = true → ∃ i, decode w = .ok i ∧ i.mnemonic = r.mnemonic)

/-- R72: "No two rows overlap." -/
def Obligations.OpcodeRowsNeverOverlap : Prop :=
  ∀ (w : CmdWord), ∀ r ∈ opcodeRows, ∀ r' ∈ opcodeRows, r.accepts w = true → r'.accepts w = true → r = r'

/-- R72's word patterns, at words written out from the opcode map: at least one of each family. -/
def Obligations.WrittenOutWordsDecode : Prop :=
  decode 0x000000#24 = .ok .nop ∧ decode 0x010000#24 = .ok .crcInit ∧ decode 0x02000F#24 = .ok (.crcByte 0x0F#8) ∧
    decode 0x03A02E#24 = .ok (.crcCheck 0x2E#8 0xA0#8) ∧ decode 0x040007#24 = .ok (.stDecode 0x07#8) ∧
    decode 0x051234#24 = .ok (.taLoad 0x1234#16) ∧ decode 0x060800#24 = .ok (.taCheck 0x00#8 0x08#8) ∧
    decode 0x070000#24 = .ok .flagsClear ∧ decode 0x0F0000#24 = .ok .sreset

/-- R73, R150, R151, in any configuration: an illegal command word does exactly `ILL <- 1`; no other word is illegal: it is the
word of a command (R73), which runs and completes without setting ILL (SRESET clears it). -/
def Obligations.IllegalCommandsSetOnlyIll : Prop :=
  ∀ (c : Config) (w : CmdWord) (s : State),
    (IllegalCommand c s.expValid w → issueIn c w s = .next { s with ill := true }) ∧
    (¬ IllegalCommand c s.expValid w →
      ∃ i t, encode i = w ∧ issueIn c w s = execIn c i s ∧ execIn c i s = .next t ∧
        t.ill = (if i = .sreset then false else s.ill))

/-! ## The step -/

/-- A presented word that decodes is run as its command, on the state from which the host's event has been taken. -/
def Obligations.StepRunsTheDecodedCommand : Prop :=
  ∀ (w : CmdWord) (i : Instr) (s : State) (rest : List HostEvent), decode w = .ok i →
    step { s with inputs := .command w :: rest } = exec i { s with inputs := rest }

/-- R73, R74, R151: a presented word that decodes to nothing sets ILL, and nothing else of the block. -/
def Obligations.StepFlagsAnUndecodableWord : Prop :=
  ∀ (w : CmdWord) (e : IllegalWord) (s : State) (rest : List HostEvent), decode w = .error e →
    step { s with inputs := .command w :: rest } = .next { s with inputs := rest, ill := true }

/-- R154: nothing stops the block. With no event presented the step leaves the state as it is (the model's choice, log entry 4). -/
def Obligations.StepAlwaysAnswersANextState : Prop :=
  (∀ s : State, ∃ t, step s = .next t) ∧ ∀ s : State, s.inputs = [] → step s = .next s

/-- R60, R56: each event of the host's is consumed once, in order, and only a read may append to what the read port has answered
(that a read does append is `ReadAnswersAndChangesNothing`). -/
def Obligations.EachEventIsConsumedOnce : Prop :=
  ∀ (s t : State) (e : HostEvent) (rest : List HostEvent), s.inputs = e :: rest → step s = .next t →
    t.inputs = rest ∧
      (t.reads = s.reads ∨ ∃ a, e = .read a ∧ t.reads = s.reads ++ [(a, regRead Config.hw s.toBlock a)])

/-! ## The read port -/

/-- R21: a read answers `RegRead(RADDR)` and changes no state of the block. -/
def Obligations.ReadAnswersAndChangesNothing : Prop :=
  ∀ (s : State) (a : RegIndex) (rest : List HostEvent),
    step { s with inputs := .read a :: rest } =
      .next { s with inputs := rest, reads := s.reads ++ [(a, regRead Config.hw s.toBlock a)] }

/-- R57: a read between two commands returns the state the first one left. -/
def Obligations.ReadSeesTheStateTheLastCommandLeft : Prop :=
  ∀ (w : CmdWord) (a : RegIndex) (s : State) (rest : List HostEvent), ∃ t u : State,
    step { s with inputs := .command w :: .read a :: rest } = .next t ∧
    issue w { s with inputs := .read a :: rest } = .next t ∧ step t = .next u ∧
    u.toBlock = t.toBlock ∧ u.inputs = rest ∧ u.reads = s.reads ++ [(a, regRead Config.hw t.toBlock a)]

/-- R32: the register read map, in any configuration, and what it reads after reset on this hardware. -/
def Obligations.RegisterReadMap : Prop :=
  (∀ (c : Config) (b : Block),
    regRead c b 0 = b.acc ∧ regRead c b 1 = b.acc ^^^ c.crcXorOut ∧ regRead c b 2 = b.status.setWidth 16 ∧
    regRead c b 3 = b.rxCrc ∧ regRead c b 4 = (if c.parserPresent then b.es.setWidth 16 else 0x0000#16) ∧
    regRead c b 5 = (if c.parserPresent then b.taEcho else 0x0000#16) ∧
    regRead c b 6 = (if c.parserPresent then b.expAddr else 0x0000#16) ∧ regRead c b 7 = configWord c) ∧
  (∀ a : RegIndex, regRead Config.hw State.reset.toBlock a =
    if a = 1 then 0xFFFF#16 else if a = 7 then 0x0007#16 else 0x0000#16)

/-- R30: CONFIG's bits, that no state changes it, and its value on this hardware. -/
def Obligations.ConfigIsHardwired : Prop :=
  (∀ (c : Config) (b b' : Block), regRead c b 7 = regRead c b' 7) ∧
  (∀ (c : Config) (b : Block) (k : Nat), (regRead c b 7).getLsbD k =
    if k = 0 then c.parserPresent else if k = 1 then c.crcReflected else if k = 2 then c.crcWireLsbFirst else false) ∧
  ∀ b : Block, regRead Config.hw b 7 = 0x0007#16

/-- R25: which bit of STATUS is which flag. -/
def Obligations.StatusBitLayout : Prop :=
  ∀ b : Block,
    b.status.getLsbD 0 = b.crcOk ∧ b.status.getLsbD 1 = b.crcValid ∧ b.status.getLsbD 2 = b.stPass ∧
    b.status.getLsbD 3 = b.stValid ∧ b.status.getLsbD 4 = b.addrOk ∧ b.status.getLsbD 5 = b.addrValid ∧
    b.status.getLsbD 6 = b.expValid ∧ b.status.getLsbD 7 = b.ill

/-- R35: with the parser present, the eight registers show every stored bit: blocks that read alike are equal. -/
def Obligations.ReadsShowEveryStoredBit : Prop :=
  ∀ (c : Config) (b b' : Block), c.parserPresent = true → (∀ a, regRead c b a = regRead c b' a) → b = b'

/-! ## Operands and the CRC function -/

/-- R102: the value of two wire bytes, the wire bytes of a value, and their round trip, in either wire order. -/
def Obligations.WireBytesRoundTrip : Prop :=
  ∀ c : Config,
    (∀ x0 x1 : Byte, wireValue c x0 x1 = if c.crcWireLsbFirst then x1 ++ x0 else x0 ++ x1) ∧
    (∀ v : Half, wireBytes c v = if c.crcWireLsbFirst then (v.extractLsb' 0 8, v.extractLsb' 8 8)
      else (v.extractLsb' 8 8, v.extractLsb' 0 8)) ∧
    ∀ v : Half, wireValue c (wireBytes c v).1 (wireBytes c v).2 = v

/-- R100: crc_update, as its pseudocode reads, in both branches and for every parameter; and this hardware's reflected polynomial. -/
def Obligations.CrcUpdateFollowsItsLoop : Prop :=
  reflect16 Config.hw.crcPoly = 0xA001#16 ∧
  ∀ (c : Config) (acc : Half) (b : Byte),
    crcUpdate c acc b =
      if c.crcReflected then
        (List.range 8).foldl (fun v _ => if v.getLsbD 0 then (v >>> 1) ^^^ c.crcPoly.reverse else v >>> 1)
          (acc ^^^ b.setWidth 16)
      else
        (List.range 8).foldl (fun v _ => if v.getLsbD 15 then (v <<< 1) ^^^ c.crcPoly else v <<< 1)
          (acc ^^^ (b.setWidth 16 <<< 8))

/-- R108, linearity: crc_update is linear over GF(2), for every parameter. -/
def Obligations.CrcUpdateIsLinear : Prop :=
  ∀ (c : Config) (a1 a2 : Half) (b1 b2 : Byte),
    crcUpdate c (a1 ^^^ a2) (b1 ^^^ b2) = crcUpdate c a1 b1 ^^^ crcUpdate c a2 b2

/-- R108, table form: in the reflected setting one table look-up replaces the eight turns. -/
def Obligations.CrcUpdateByTable : Prop :=
  ∀ (c : Config) (acc : Half) (b : Byte), c.crcReflected = true →
    crcUpdate c acc b = crcUpdate c 0x0000#16 ((acc ^^^ b.setWidth 16).extractLsb' 0 8) ^^^ (acc >>> 8)

/-- R2, R100: the two branches are mirror images: bits reversed in, bits reversed out. -/
def Obligations.CrcBranchesMirrorEachOther : Prop :=
  ∀ (c : Config) (acc : Half) (b : Byte),
    crcUpdate { c with crcReflected := true } acc b =
      (crcUpdate { c with crcReflected := false } acc.reverse b.reverse).reverse

/-- R108, residue: feeding a span and then its own two wire bytes leaves 0xB001, whatever the span. The value rests on this
hardware's CRC parameters (R2). -/
def Obligations.ResidueOfASpanAndItsCrc : Prop :=
  ∀ span : List Byte,
    crcSpan Config.hw (span ++ [(appendedCrc Config.hw span).1, (appendedCrc Config.hw span).2]) = 0xB001#16

/-- R105, last corner case, on this hardware: a one-bit change anywhere in a span changes its CRC value, so CRC.CHECK with the
CRC bytes of the unchanged span clears CRC_OK. -/
def Obligations.OneBitChangeInASpanIsDetected : Prop :=
  ∀ (before after : List Byte) (b : Byte) (k : Nat) (s t : State), k < 8 →
    s.acc = crcSpan Config.hw (before ++ [b ^^^ (1#8 <<< k)] ++ after) →
    exec (.crcCheck (appendedCrc Config.hw (before ++ [b] ++ after)).1
      (appendedCrc Config.hw (before ++ [b] ++ after)).2) s = .next t →
    t.crcOk = false ∧ t.crcValid = true

/-! ## The CRC engine's commands -/

/-- R103: CRC.INIT's effect, its word, and its illegal forms. -/
def Obligations.CrcInitStartsASpan : Prop :=
  (∀ s : State, exec .crcInit s = .next { s with acc := Config.hw.crcInit, crcOk := false, crcValid := false }) ∧
  (∀ s : State, issue 0x010000#24 s = exec .crcInit s) ∧
  ∀ (d1 d0 : Byte) (s : State), (d1 ≠ 0#8 ∨ d0 ≠ 0#8) → issue (0x01#8 ++ d1 ++ d0) s = .next { s with ill := true }

/-- R104: CRC.BYTE's effect, its word, and its illegal forms. -/
def Obligations.CrcByteFeedsOneByte : Prop :=
  (∀ (b : Byte) (s : State),
    exec (.crcByte b) s = .next { s with acc := crcUpdate Config.hw s.acc b, crcOk := false, crcValid := false }) ∧
  (∀ (b : Byte) (s : State), issue (0x0200#16 ++ b) s = exec (.crcByte b) s) ∧
  ∀ (d1 d0 : Byte) (s : State), d1 ≠ 0#8 → issue (0x02#8 ++ d1 ++ d0) s = .next { s with ill := true }

/-- R105: CRC.CHECK's effect and its word; every operand is legal. ACC is unchanged. -/
def Obligations.CrcCheckComparesWithTheReceivedCrc : Prop :=
  (∀ (c0 c1 : Byte) (s : State), exec (.crcCheck c0 c1) s = .next { s with
    rxCrc := if Config.hw.crcWireLsbFirst then c1 ++ c0 else c0 ++ c1,
    crcOk := (s.acc ^^^ Config.hw.crcXorOut) == (if Config.hw.crcWireLsbFirst then c1 ++ c0 else c0 ++ c1),
    crcValid := true }) ∧
  ∀ (c0 c1 : Byte) (s : State), issue (0x03#8 ++ c1 ++ c0) s = exec (.crcCheck c0 c1) s

/-- R106: the CRC of a span, and what the presented commands of CRC.SPAN and CRC.VERIFY leave, from any state. -/
def Obligations.SpanCommandsComputeTheSpansCrc : Prop :=
  crcSpan Config.hw [] = Config.hw.crcInit ∧
  (∀ (span : List Byte) (b : Byte), crcSpan Config.hw (span ++ [b]) = crcUpdate Config.hw (crcSpan Config.hw span) b) ∧
  (∀ (span : List Byte) (s : State),
    runCommands (Pseudo.crcSpan span).expand s =
      .next { s with acc := crcSpan Config.hw span, crcOk := false, crcValid := false }) ∧
  ∀ (span : List Byte) (c0 c1 : Byte) (s : State),
    runCommands (Pseudo.crcVerify span c0 c1).expand s =
      .next { s with acc := crcSpan Config.hw span, rxCrc := wireValue Config.hw c0 c1,
                     crcOk := crcOut Config.hw (crcSpan Config.hw span) == wireValue Config.hw c0 c1, crcValid := true }

/-- R107: on a fault-free bus, checking a span against the CRC its own transmitter appends always leaves CRC_OK = 1. -/
def Obligations.AppendedCrcAlwaysVerifies : Prop :=
  ∀ (span : List Byte) (s : State), ∃ t : State,
    runCommands (Pseudo.crcVerify span (appendedCrc Config.hw span).1 (appendedCrc Config.hw span).2).expand s =
      .next t ∧ t.crcOk = true ∧ t.crcValid = true

/-- R175: without CRC.INIT the bytes extend the span before them. -/
def Obligations.BytesWithoutInitExtendTheOldSpan : Prop :=
  ∀ (old new : List Byte) (s : State), s.acc = crcSpan Config.hw old → ∃ t : State,
    runCommands (new.map .crcByte) s = .next t ∧
      t.acc = crcSpan Config.hw (old ++ new)

/-! ## The scratchpad-frame parser's commands -/

/-- R121: the pass-mask check passes exactly when es[2:0] = 0b111. -/
def Obligations.PassCheckReadsOnlyTheLowThreeBits : Prop :=
  ∀ es : Byte, stPassCheck es = true ↔ es.extractLsb' 0 3 = 0b111#3

/-- R120: ST.DECODE's effect, its word, and its illegal forms: a nonzero D1, and a block without the parser. -/
def Obligations.StDecodeDecodesTheStatusByte : Prop :=
  (∀ (es : Byte) (s : State),
    exec (.stDecode es) s = .next { s with es := es, stPass := es.extractLsb' 0 3 == 0b111#3, stValid := true }) ∧
  (∀ (es : Byte) (s : State), issue (0x0400#16 ++ es) s = exec (.stDecode es) s) ∧
  (∀ (d1 d0 : Byte) (s : State), d1 ≠ 0#8 → issue (0x04#8 ++ d1 ++ d0) s = .next { s with ill := true }) ∧
  ∀ (c : Config) (es : Byte) (s : State), c.parserPresent = false →
    execIn c (.stDecode es) s = .next { s with ill := true }

/-- R122: TA.LOAD's effect and its word; every address is legal where the parser is, none where it is not. -/
def Obligations.TaLoadLoadsTheExpectedAddress : Prop :=
  (∀ (a : Half) (s : State),
    exec (.taLoad a) s = .next { s with expAddr := a, expValid := true, addrOk := false, addrValid := false }) ∧
  (∀ (d1 d0 : Byte) (s : State), issue (0x05#8 ++ d1 ++ d0) s = exec (.taLoad (d1 ++ d0)) s) ∧
  ∀ (c : Config) (a : Half) (s : State), c.parserPresent = false →
    execIn c (.taLoad a) s = .next { s with ill := true }

/-- R123: with an expected address held, TA.CHECK compares all 16 bits of the new echo with it. -/
def Obligations.TaCheckComparesTheEcho : Prop :=
  ∀ (ta1 ta2 : Byte) (s : State), s.expValid = true →
    exec (.taCheck ta1 ta2) s =
      .next { s with taEcho := ta2 ++ ta1, addrOk := (ta2 ++ ta1) == s.expAddr, addrValid := true }

/-- R123: TA.CHECK's word, and its illegal forms: no TA.LOAD since reset, and a block without the parser. -/
def Obligations.TaCheckIsIllegalWithoutAnExpectedAddress : Prop :=
  (∀ (ta1 ta2 : Byte) (s : State), issue (0x06#8 ++ ta2 ++ ta1) s = exec (.taCheck ta1 ta2) s) ∧
  (∀ (ta1 ta2 : Byte) (s : State), s.expValid = false → exec (.taCheck ta1 ta2) s = .next { s with ill := true }) ∧
  ∀ (c : Config) (ta1 ta2 : Byte) (s : State), c.parserPresent = false →
    execIn c (.taCheck ta1 ta2) s = .next { s with ill := true }

/-- R124: what the commands of SP.RDCHK leave, from any state: the three verdicts, each VALID flag set, ILL unchanged. The last
clause is about the reading of them that accepts the response, Safety's (R173, R177; DEDUCED, log entry 12). -/
def Obligations.ReadCheckLeavesTheThreeVerdicts : Prop :=
  ∀ (a : Half) (ta1 ta2 es : Byte) (payload : List Byte) (c0 c1 : Byte) (s : State), ∃ t : State,
    runCommands (Pseudo.spRdchk a ta1 ta2 es payload c0 c1).expand s = .next t ∧
    (t.crcOk = true ↔ crcOut Config.hw (crcSpan Config.hw ([0xAA#8, ta1, ta2, es] ++ payload)) = wireValue Config.hw c0 c1) ∧
    (t.stPass = true ↔ es.extractLsb' 0 3 = 0b111#3) ∧ (t.addrOk = true ↔ ta2 ++ ta1 = a) ∧
    t.crcValid = true ∧ t.stValid = true ∧ t.addrValid = true ∧ t.expValid = true ∧ t.ill = s.ill ∧
    (t.toBlock.AcceptedResponse ↔ s.ill = false ∧ t.crcOk = true ∧ t.stPass = true ∧ t.addrOk = true)

/-- R76, R81, R52: what the commands of SP.WRCHK leave, from any state: the CRC verdict on the write-scratchpad frame, its
address low byte first. -/
def Obligations.WriteCheckCoversTheWholeFrame : Prop :=
  ∀ (a : Half) (payload : List Byte) (c0 c1 : Byte) (s : State),
    runCommands (Pseudo.spWrchk a payload c0 c1).expand s =
      .next { s with
        acc := crcSpan Config.hw ([0x0F#8, a.extractLsb' 0 8, a.extractLsb' 8 8] ++ payload),
        rxCrc := wireValue Config.hw c0 c1,
        crcOk := crcOut Config.hw (crcSpan Config.hw ([0x0F#8, a.extractLsb' 0 8, a.extractLsb' 8 8] ++ payload)) ==
          wireValue Config.hw c0 c1,
        crcValid := true }

/-- R109, R159, R177: the flags the engine reads as TransmissionError after SP.WRCHK, and as StagingMismatch after SP.RDCHK (its
payload part is outside the block), stand exactly when the bytes disagree. The readings are Safety's (log entry 12). -/
def Obligations.EngineReadingsFollowTheBytes : Prop :=
  (∀ (a : Half) (payload : List Byte) (c0 c1 : Byte) (s t : State),
    runCommands (Pseudo.spWrchk a payload c0 c1).expand s = .next t →
      (t.toBlock.TransmissionError ↔ crcOut Config.hw (crcSpan Config.hw (spanWrite a payload)) ≠ wireValue Config.hw c0 c1)) ∧
  ∀ (a : Half) (ta1 ta2 es : Byte) (payload : List Byte) (c0 c1 : Byte) (s t : State),
    runCommands (Pseudo.spRdchk a ta1 ta2 es payload c0 c1).expand s = .next t →
      (t.toBlock.StagingMismatch ↔
        crcOut Config.hw (crcSpan Config.hw (spanRead ta1 ta2 es payload)) = wireValue Config.hw c0 c1 ∧
          (ta2 ++ ta1 ≠ a ∨ es.extractLsb' 0 3 ≠ 0b111#3))

/-- R3: a block without the parser: its commands are illegal, its registers and CONFIG bit 0 read 0; this hardware has the
parser. -/
def Obligations.ParserAbsentMeansIllegalAndZero : Prop :=
  (∀ (c : Config) (i : Instr) (s : State), i.wellFormedIn c = false → execIn c i s = .next { s with ill := true }) ∧
  (∀ (c : Config) (b : Block), c.parserPresent = false →
    regRead c b 4 = 0x0000#16 ∧ regRead c b 5 = 0x0000#16 ∧ regRead c b 6 = 0x0000#16 ∧ (regRead c b 7).getLsbD 0 = false) ∧
  Config.hw.parserPresent = true

/-! ## The control commands and reset -/

/-- R140: NOP changes nothing; its word is all zeros, and a nonzero operand byte makes the word illegal. -/
def Obligations.NopChangesNothing : Prop :=
  (∀ s : State, exec .nop s = .next s) ∧ (∀ s : State, issue 0x000000#24 s = exec .nop s) ∧
  ∀ (d1 d0 : Byte) (s : State), (d1 ≠ 0#8 ∨ d0 ≠ 0#8) → issue (0x00#8 ++ d1 ++ d0) s = .next { s with ill := true }

/-- R141: FLAGS.CLEAR clears STATUS bits 0 to 5 and nothing else; its word and its illegal forms. -/
def Obligations.FlagsClearClearsTheVerdicts : Prop :=
  (∀ s : State, exec .flagsClear s = .next { s with
    crcOk := false, crcValid := false, stPass := false, stValid := false, addrOk := false, addrValid := false }) ∧
  (∀ s : State, issue 0x070000#24 s = exec .flagsClear s) ∧
  ∀ (d1 d0 : Byte) (s : State), (d1 ≠ 0#8 ∨ d0 ≠ 0#8) → issue (0x07#8 ++ d1 ++ d0) s = .next { s with ill := true }

/-- R142: SRESET gives every field its reset value; its word and its illegal forms, which do not reset; it is what power-on reset
does, and the only command that clears ILL. -/
def Obligations.SresetResetsEveryField : Prop :=
  (∀ s : State, exec .sreset s = .next { s with
    acc := Config.hw.crcInit, rxCrc := 0x0000#16, es := 0x00#8, taEcho := 0x0000#16, expAddr := 0x0000#16,
    crcOk := false, crcValid := false, stPass := false, stValid := false,
    addrOk := false, addrValid := false, expValid := false, ill := false }) ∧
  (∀ s : State, issue 0x0F0000#24 s = exec .sreset s) ∧
  (∀ (d1 d0 : Byte) (s : State), (d1 ≠ 0#8 ∨ d0 ≠ 0#8) → issue (0x0F#8 ++ d1 ++ d0) s = .next { s with ill := true }) ∧
  (∀ (s : State) (rest : List HostEvent),
    step { s with inputs := .powerOnReset :: rest } = exec .sreset { s with inputs := rest }) ∧
  ∀ (i : Instr) (s t : State), i ≠ .sreset → s.ill = true → exec i s = .next t → t.ill = true

/-- R170: power-on reset and SRESET have the same effect on the block, whatever state it is in: the state of power up. -/
def Obligations.BothResetsLeaveTheResetState : Prop :=
  ∀ (s : State) (rest : List HostEvent),
    step { s with inputs := .powerOnReset :: rest } = exec .sreset { s with inputs := rest } ∧
    ∃ t : State, exec .sreset { s with inputs := rest } = .next t ∧ t.toBlock = State.reset.toBlock

/-- R171: the reset value of every field, for any configuration; CRC_OUT and CONFIG as this hardware reads after reset. -/
def Obligations.ResetValueOfEveryField : Prop :=
  (∀ c : Config, (State.resetIn c).acc = c.crcInit ∧ (State.resetIn c).rxCrc = 0x0000#16 ∧
    (State.resetIn c).toBlock.status = 0x00#8 ∧ (State.resetIn c).es = 0x00#8 ∧ (State.resetIn c).taEcho = 0x0000#16 ∧
    (State.resetIn c).expAddr = 0x0000#16 ∧ regRead c (State.resetIn c).toBlock 1 = c.crcInit ^^^ c.crcXorOut ∧
    ∀ b : Block, regRead c (State.resetIn c).toBlock 7 = regRead c b 7) ∧
  State.reset = State.resetIn Config.hw ∧ State.reset.acc = 0x0000#16 ∧ regRead Config.hw State.reset.toBlock 1 = 0xFFFF#16

/-! ## The whole machine -/

/-- R34, the invariant that every step keeps, on this hardware and in any configuration: a verdict is set only while it is valid, and
an echo verdict stands only while an expected address is held. So no host, whatever it does after reset, meets a state that breaks it. -/
def Obligations.EveryStepKeepsVerdictsCoherent : Prop :=
  (∀ s t : State, s.toBlock.Coherent → step s = .next t → t.toBlock.Coherent) ∧
  (∀ (c : Config) (s t : State), s.toBlock.Coherent → stepIn c s = .next t → t.toBlock.Coherent) ∧
  ∀ (events : List HostEvent) (n : Nat) (t : State),
    run n { State.reset with inputs := events } = .next t → t.toBlock.Coherent

/-- R34, R31: both invariants hold at reset, in any configuration. That `ParserClear` keeps the fields of absent registers at 0 is
the model's choice (DESIGN CHOICE, log entry 8). -/
def Obligations.ResetSatisfiesTheInvariants : Prop :=
  State.reset.toBlock.Coherent ∧
  ∀ c : Config, (State.resetIn c).toBlock.Coherent ∧ (State.resetIn c).toBlock.ParserClear

/-- R31: in a block without the parser, STATUS bits 2 to 6 stay 0 and read indexes 4, 5 and 6 return 0. That the fields of the
registers ES, TA_ECHO and EXP_ADDR, which then do not exist, stay 0 too is the model's choice (DESIGN CHOICE, log entry 8). -/
def Obligations.ParserAbsentStaysClear : Prop :=
  ∀ (c : Config) (s t : State), c.parserPresent = false → s.toBlock.ParserClear → stepIn c s = .next t →
    t.toBlock.ParserClear ∧ regRead c t.toBlock 4 = 0x0000#16 ∧ regRead c t.toBlock 5 = 0x0000#16 ∧
    regRead c t.toBlock 6 = 0x0000#16 ∧ ∀ k, 2 ≤ k → k ≤ 6 → (regRead c t.toBlock 2).getLsbD k = false

/-- R153: ILL is sticky: once it is set, a step clears it exactly when it serves SRESET's word or power-on reset. -/
def Obligations.IllIsClearedOnlyByReset : Prop :=
  ∀ s t : State, s.ill = true → step s = .next t →
    (t.ill = false ↔ ∃ rest, s.inputs = .powerOnReset :: rest ∨ s.inputs = .command 0x0F0000#24 :: rest)

/-- R33, with R25's columns for the flags: which commands write which field; every other field is unchanged, an illegal command
writes only ILL, and a command never touches the host's side of the ports. -/
def Obligations.OnlyNamedCommandsWriteAField : Prop :=
  (∀ (w : CmdWord) (e : IllegalWord) (s : State), decode w = .error e → issue w s = .next { s with ill := true }) ∧
  ∀ (i : Instr) (s t : State), exec i s = .next t →
    (i.mnemonic ∉ ["CRC.INIT", "CRC.BYTE", "SRESET"] → t.acc = s.acc) ∧
    (i.mnemonic ∉ ["CRC.CHECK", "SRESET"] → t.rxCrc = s.rxCrc) ∧
    (i.mnemonic ∉ ["ST.DECODE", "SRESET"] → t.es = s.es) ∧
    (i.mnemonic ∉ ["TA.CHECK", "SRESET"] → t.taEcho = s.taEcho) ∧
    (i.mnemonic ∉ ["TA.LOAD", "SRESET"] → t.expAddr = s.expAddr) ∧
    (i.mnemonic ∉ ["CRC.CHECK", "CRC.INIT", "CRC.BYTE", "FLAGS.CLEAR", "SRESET"] →
      t.crcOk = s.crcOk ∧ t.crcValid = s.crcValid) ∧
    (i.mnemonic ∉ ["ST.DECODE", "FLAGS.CLEAR", "SRESET"] → t.stPass = s.stPass ∧ t.stValid = s.stValid) ∧
    (i.mnemonic ∉ ["TA.CHECK", "TA.LOAD", "FLAGS.CLEAR", "SRESET"] → t.addrOk = s.addrOk ∧ t.addrValid = s.addrValid) ∧
    (i.mnemonic ∉ ["TA.LOAD", "SRESET"] → t.expValid = s.expValid) ∧
    (i.mnemonic ≠ "SRESET" → (i.mnemonic ≠ "TA.CHECK" ∨ s.expValid = true) → t.ill = s.ill) ∧
    (i.mnemonic = "TA.CHECK" → s.expValid = false → t = { s with ill := true }) ∧
    (i.mnemonic = "NOP" → t = s) ∧ t.inputs = s.inputs ∧ t.reads = s.reads

/-- R63: reads have no side effect; a second identical command word changes nothing further, CRC.BYTE's words excepted, which are
not idempotent. -/
def Obligations.OnlyCrcByteIsNotIdempotent : Prop :=
  (∀ (c : Config) (a : RegIndex) (s : State), (s.readPort c a).toBlock = s.toBlock) ∧
  (∀ (w : CmdWord) (s t : State), (∀ b, w ≠ encode (.crcByte b)) → issue w s = .next t → issue w t = .next t) ∧
  ∃ (b : Byte) (s t u : State), exec (.crcByte b) s = .next t ∧ exec (.crcByte b) t = .next u ∧ t.acc ≠ u.acc

/-- R178: the parser's input is separate: what any command leaves of the CRC side depends on nothing else of the state, and what it
leaves of the parser side on nothing else of it. -/
def Obligations.CrcAndParserDoNotFeedEachOther : Prop :=
  ∀ (i : Instr) (s s' t t' : State), exec i s = .next t → exec i s' = .next t' →
    (s.toBlock.crcSide = s'.toBlock.crcSide → t.toBlock.crcSide = t'.toBlock.crcSide) ∧
    (s.toBlock.parserSide = s'.toBlock.parserSide → t.toBlock.parserSide = t'.toBlock.parserSide)

/-! ## The assembler -/

/-- R75: an operand in its range is taken as it is, and one out of it is rejected, never truncated. -/
def Obligations.AssemblerRejectsOutOfRangeOperands : Prop :=
  ∀ (c : Config) (n m : Nat),
    lineCommands c "CRC.BYTE".toList [.number n] = (if n < 256 then some [.crcByte (BitVec.ofNat 8 n)] else none) ∧
    lineCommands c "ST.DECODE".toList [.number n] = (if n < 256 then some [.stDecode (BitVec.ofNat 8 n)] else none) ∧
    lineCommands c "TA.LOAD".toList [.number n] = (if n < 65536 then some [.taLoad (BitVec.ofNat 16 n)] else none) ∧
    lineCommands c "CRC.CHECK".toList [.number n, .number m] =
      (if n < 256 ∧ m < 256 then some [.crcCheck (BitVec.ofNat 8 n) (BitVec.ofNat 8 m)] else none) ∧
    lineCommands c "TA.CHECK".toList [.number n, .number m] =
      (if n < 256 ∧ m < 256 then some [.taCheck (BitVec.ofNat 8 n) (BitVec.ofNat 8 m)] else none)
end

