-- ==== Sys2Proof/Laws/Crc.lean ====
section
/-! SUPPORT. The small lemmas of the CRC function: turns of the loop, and bytes fed one after another. -/

namespace Sys2Proof.Machine

@[simp] theorem turns_zero (body : Half → Half) (v : Half) : turns body 0 v = v := rfl

theorem turns_succ (body : Half → Half) (n : Nat) (v : Half) : turns body (n + 1) v = turns body n (body v) := rfl

@[simp] theorem crcFeed_nil (c : Config) (acc : Half) : crcFeed c acc [] = acc := rfl

@[simp] theorem crcFeed_cons (c : Config) (acc : Half) (b : Byte) (span : List Byte) :
    crcFeed c acc (b :: span) = crcFeed c (crcUpdate c acc b) span := rfl

/-- Two spans fed one after the other are one span fed (R175). -/
theorem crcFeed_append (c : Config) (acc : Half) (xs ys : List Byte) :
    crcFeed c acc (xs ++ ys) = crcFeed c (crcFeed c acc xs) ys := List.foldl_append

theorem reflect16_getLsbD (v : Half) (k : Nat) (hk : k < 16) : (reflect16 v).getLsbD k = v.getLsbD (15 - k) := by
  simp only [reflect16, BitVec.getLsbD_reverse, BitVec.getMsbD_eq_getLsbD]
  grind

theorem wireBytes_lsbFirst {c : Config} (h : c.crcWireLsbFirst = true) (v : Half) : wireBytes c v = (lowByte v, highByte v) := by
  simp [wireBytes, h]

theorem wireValue_lsbFirst {c : Config} (h : c.crcWireLsbFirst = true) (x0 x1 : Byte) : wireValue c x0 x1 = x1 ++ x0 := by
  simp [wireValue, h]

end Sys2Proof.Machine
end

