-- ==== Sys2Proof/Laws/Decode.lean ====
section
/-! SUPPORT. The command word and its four fields: packing and taking apart are inverse. -/

namespace Sys2Proof

theorem packWord_getLsbD (rsv op : BitVec 4) (d1 d0 : Byte) (k : Nat) :
    (packWord rsv op d1 d0).getLsbD k =
      if k < 8 then d0.getLsbD k
      else if k < 16 then d1.getLsbD (k - 8)
      else if k < 20 then op.getLsbD (k - 16)
      else rsv.getLsbD (k - 20) := by
  simp only [packWord, BitVec.getLsbD_cast, BitVec.getLsbD_append]
  grind

@[simp] theorem rsvField_packWord (rsv op : BitVec 4) (d1 d0 : Byte) : rsvField (packWord rsv op d1 d0) = rsv := by
  ext k hk
  simp only [rsvField, BitVec.getElem_extractLsb', packWord_getLsbD]
  grind

@[simp] theorem opField_packWord (rsv op : BitVec 4) (d1 d0 : Byte) : opField (packWord rsv op d1 d0) = op := by
  ext k hk
  simp only [opField, BitVec.getElem_extractLsb', packWord_getLsbD]
  grind

@[simp] theorem d1Field_packWord (rsv op : BitVec 4) (d1 d0 : Byte) : d1Field (packWord rsv op d1 d0) = d1 := by
  ext k hk
  simp only [d1Field, BitVec.getElem_extractLsb', packWord_getLsbD]
  grind

@[simp] theorem d0Field_packWord (rsv op : BitVec 4) (d1 d0 : Byte) : d0Field (packWord rsv op d1 d0) = d0 := by
  ext k hk
  simp only [d0Field, BitVec.getElem_extractLsb', packWord_getLsbD]
  grind

/-- A word is its four fields (R70). -/
theorem packWord_fields (w : CmdWord) : packWord (rsvField w) (opField w) (d1Field w) (d0Field w) = w := by
  ext k hk
  rw [← BitVec.getLsbD_eq_getElem, packWord_getLsbD]
  simp only [rsvField, opField, d1Field, d0Field, BitVec.getLsbD_extractLsb']
  grind

/-- The decoder works on the fields alone. -/
theorem decode_packWord (rsv op : BitVec 4) (d1 d0 : Byte) :
    decode (packWord rsv op d1 d0) = if rsv = 0#4 then decodeOp op d1 d0 else .error .reservedBitsSet := by
  simp [decode]

/-- The two bytes of an address, put together again (R71). -/
theorem half_of_bytes (a : Half) : (a.extractLsb' 8 8 ++ a.extractLsb' 0 8 : BitVec (8 + 8)) = a := by
  ext k hk
  simp only [BitVec.getElem_append, BitVec.getElem_extractLsb']
  grind

/-- The form `none` accepts exactly two zero operand bytes (R71). -/
theorem formNone_ok {i j : Instr} {d1 d0 : Byte} : formNone i d1 d0 = .ok j ↔ d1 = 0#8 ∧ d0 = 0#8 ∧ i = j := by
  unfold formNone
  split <;> simp_all

/-- The form `imm8` accepts exactly a zero D1 (R71). -/
theorem formImm8_ok {mk : Byte → Instr} {j : Instr} {d1 d0 : Byte} : formImm8 mk d1 d0 = .ok j ↔ d1 = 0#8 ∧ mk d0 = j := by
  unfold formImm8
  split <;> simp_all

end Sys2Proof
end

