-- ==== Sys2Proof/Laws/State.lean ====
section
/-! SUPPORT. One lemma per field per update of the state, so that no later proof unfolds a record update. -/

namespace Sys2Proof.Machine

section Updates
variable (s : State) (c : Config) (v : Half) (a : RegIndex) (is : List Instr)

@[simp] theorem setAcc_acc : (s.setAcc v).acc = v := rfl
@[simp] theorem setAcc_rxCrc : (s.setAcc v).rxCrc = s.rxCrc := rfl
@[simp] theorem setAcc_es : (s.setAcc v).es = s.es := rfl
@[simp] theorem setAcc_taEcho : (s.setAcc v).taEcho = s.taEcho := rfl
@[simp] theorem setAcc_expAddr : (s.setAcc v).expAddr = s.expAddr := rfl
@[simp] theorem setAcc_crcOk : (s.setAcc v).crcOk = false := rfl
@[simp] theorem setAcc_crcValid : (s.setAcc v).crcValid = false := rfl
@[simp] theorem setAcc_stPass : (s.setAcc v).stPass = s.stPass := rfl
@[simp] theorem setAcc_stValid : (s.setAcc v).stValid = s.stValid := rfl
@[simp] theorem setAcc_addrOk : (s.setAcc v).addrOk = s.addrOk := rfl
@[simp] theorem setAcc_addrValid : (s.setAcc v).addrValid = s.addrValid := rfl
@[simp] theorem setAcc_expValid : (s.setAcc v).expValid = s.expValid := rfl
@[simp] theorem setAcc_ill : (s.setAcc v).ill = s.ill := rfl
@[simp] theorem setAcc_inputs : (s.setAcc v).inputs = s.inputs := rfl
@[simp] theorem setAcc_reads : (s.setAcc v).reads = s.reads := rfl

@[simp] theorem checkEcho_acc : (s.checkEcho v).acc = s.acc := rfl
@[simp] theorem checkEcho_rxCrc : (s.checkEcho v).rxCrc = s.rxCrc := rfl
@[simp] theorem checkEcho_es : (s.checkEcho v).es = s.es := rfl
@[simp] theorem checkEcho_taEcho : (s.checkEcho v).taEcho = v := rfl
@[simp] theorem checkEcho_expAddr : (s.checkEcho v).expAddr = s.expAddr := rfl
@[simp] theorem checkEcho_crcOk : (s.checkEcho v).crcOk = s.crcOk := rfl
@[simp] theorem checkEcho_crcValid : (s.checkEcho v).crcValid = s.crcValid := rfl
@[simp] theorem checkEcho_stPass : (s.checkEcho v).stPass = s.stPass := rfl
@[simp] theorem checkEcho_stValid : (s.checkEcho v).stValid = s.stValid := rfl
@[simp] theorem checkEcho_addrOk : (s.checkEcho v).addrOk = echoMatches v s.expAddr := rfl
@[simp] theorem checkEcho_addrValid : (s.checkEcho v).addrValid = true := rfl
@[simp] theorem checkEcho_expValid : (s.checkEcho v).expValid = s.expValid := rfl
@[simp] theorem checkEcho_ill : (s.checkEcho v).ill = s.ill := rfl
@[simp] theorem checkEcho_inputs : (s.checkEcho v).inputs = s.inputs := rfl
@[simp] theorem checkEcho_reads : (s.checkEcho v).reads = s.reads := rfl

@[simp] theorem resetBlock_toBlock : (s.resetBlock c).toBlock = Block.reset c := rfl
@[simp] theorem resetBlock_inputs : (s.resetBlock c).inputs = s.inputs := rfl
@[simp] theorem resetBlock_reads : (s.resetBlock c).reads = s.reads := rfl

@[simp] theorem readPort_toBlock : (s.readPort c a).toBlock = s.toBlock := rfl
@[simp] theorem readPort_inputs : (s.readPort c a).inputs = s.inputs := rfl
@[simp] theorem readPort_reads : (s.readPort c a).reads = s.reads ++ [(a, regRead c s.toBlock a)] := rfl

@[simp] theorem presenting_toBlock : (s.presenting is).toBlock = s.toBlock := rfl
@[simp] theorem presenting_reads : (s.presenting is).reads = s.reads := rfl
@[simp] theorem presenting_nil : s.presenting [] = s := rfl
@[simp] theorem presenting_cons (i : Instr) :
    s.presenting (i :: is) = { s with inputs := .command (encode i) :: (s.presenting is).inputs } := rfl

end Updates

end Sys2Proof.Machine
end

