-- ==== Sys2Proof/Laws/Ops.lean ====
section
/-! SUPPORT. What each shared operation can do, said once: a prover cites these and does not unfold the operation. -/

namespace Sys2Proof.Machine

/-- An illegal command answers a next state, and which (R151). -/
theorem raiseIllegal_next {s t : State} : raiseIllegal s = .next t ↔ t = { s with ill := true } := by
  simp [raiseIllegal, eq_comm]

/-- A parser command runs where the parser is, and is illegal where it is not (R150 condition 5). -/
theorem ifParser_next {c : Config} {run : Result} {s t : State} :
    ifParser c run s = .next t ↔
      (c.parserPresent = true ∧ run = .next t) ∨ (c.parserPresent = false ∧ t = { s with ill := true }) := by
  unfold ifParser
  cases c.parserPresent <;> simp [raiseIllegal_next]

@[simp] theorem ifParser_present {c : Config} (h : c.parserPresent = true) (run : Result) (s : State) :
    ifParser c run s = run := by
  simp [ifParser, h]

@[simp] theorem ifParser_absent {c : Config} (h : c.parserPresent = false) (run : Result) (s : State) :
    ifParser c run s = raiseIllegal s := by
  simp [ifParser, h]

/-- A word that decodes runs its command (R73). -/
theorem issueWith_ok {run : Instr → State → Result} {w : CmdWord} {i : Instr} (h : decode w = .ok i) (s : State) :
    issueWith run w s = run i s := by
  simp [issueWith, h]

/-- A word that does not decode is an illegal command (R73, R151). -/
theorem issueWith_error {run : Instr → State → Result} {w : CmdWord} {e : IllegalWord} (h : decode w = .error e) (s : State) :
    issueWith run w s = .next { s with ill := true } := by
  simp [issueWith, h, raiseIllegal]

/-- TA.CHECK's three ways (R123): no parser, no expected address, the comparison. -/
theorem taCheckIn_cases (c : Config) (ta1 ta2 : Byte) (s : State) :
    taCheckIn c ta1 ta2 s =
      if c.parserPresent && s.expValid then .next (s.checkEcho (echoAddress ta1 ta2)) else .next { s with ill := true } := by
  unfold taCheckIn ifParser raiseIllegal
  cases c.parserPresent <;> cases s.expValid <;> rfl

@[simp] theorem stepWith_nil (c : Config) (run : Instr → State → Result) {s : State} (h : s.inputs = []) :
    stepWith c run s = .next s := by
  simp [stepWith, h, idle]

/-- One step with an event to serve takes it and serves it. -/
theorem stepWith_cons (c : Config) (run : Instr → State → Result) {s : State} {e : HostEvent} {rest : List HostEvent}
    (h : s.inputs = e :: rest) : stepWith c run s = serveWith c run e { s with inputs := rest } := by
  simp [stepWith, h]

/-- This hardware's meanings are the configured ones at `Config.hw`. -/
theorem exec_eq_execIn (i : Instr) (s : State) : exec i s = execIn Config.hw i s := by
  cases i <;> rfl

/-- The host's side of the ports is out of every command's reach. -/
theorem execIn_keeps_host {c : Config} {i : Instr} {s t : State} (h : execIn c i s = .next t) :
    t.inputs = s.inputs ∧ t.reads = s.reads := by
  cases i <;>
    simp only [execIn, nopIn, crcInitIn, crcByteIn, crcCheckIn, stDecodeIn, taLoadIn, taCheckIn_cases, flagsClearIn, sresetIn,
      ifParser_next, Host.Outcome.next.injEq] at h
  case taCheck ta1 ta2 => split at h <;> (cases h; exact ⟨rfl, rfl⟩)
  case stDecode es => rcases h with ⟨-, h⟩ | ⟨-, h⟩ <;> cases h <;> exact ⟨rfl, rfl⟩
  case taLoad a => rcases h with ⟨-, h⟩ | ⟨-, h⟩ <;> cases h <;> exact ⟨rfl, rfl⟩
  all_goals (cases h; exact ⟨rfl, rfl⟩)

end Sys2Proof.Machine
end

