-- ==== Sys2Proof/Laws/PerInstr.lean ====
section
/-! SUPPORT. Statements made per instruction about the instruction as syntax. The family `OpField`: a command's word has RSV = 0
and its own operation code (spec/30_encoding.md R70, R72). -/

namespace Sys2Proof.Laws.OpField

/-- The word of `i` carries RSV = 0 and R72's operation code for `i`. -/
def Statement (i : Instr) : Prop := rsvField (encode i) = 0#4 ∧ opField (encode i) = i.op

theorem of_packWord (i : Instr) : Statement i := by
  simp [Statement, encode]

theorem nop : Statement .nop := of_packWord _
theorem crcInit : Statement .crcInit := of_packWord _
theorem crcByte (b : Byte) : Statement (.crcByte b) := of_packWord _
theorem crcCheck (c0 c1 : Byte) : Statement (.crcCheck c0 c1) := of_packWord _
theorem stDecode (es : Byte) : Statement (.stDecode es) := of_packWord _
theorem taLoad (a : Half) : Statement (.taLoad a) := of_packWord _
theorem taCheck (ta1 ta2 : Byte) : Statement (.taCheck ta1 ta2) := of_packWord _
theorem flagsClear : Statement .flagsClear := of_packWord _
theorem sreset : Statement .sreset := of_packWord _

end Sys2Proof.Laws.OpField
end

