-- ==== Sys2Proof/Laws/Run.lean ====
section
/-! SUPPORT. Runs of the machine, one step at a time. -/

namespace Sys2Proof.Machine

/-- `run` is the host interface's run of this machine. -/
theorem core_run_eq_run (n : Nat) (s : State) : Host.Core.run core n s = run n s := by
  induction n generalizing s with
  | zero => rfl
  | succ n ih =>
    have hs : Host.Core.step core s = step s := rfl
    simp only [Host.Core.run, run, hs]
    cases step s with
    | next t => exact ih t
    | fault r => rfl
    | refused r => rfl

@[simp] theorem run_zero (s : State) : run 0 s = .next s := rfl

/-- A run's first step, when it answers a next state. -/
theorem run_succ_of_step {s t : State} (h : step s = .next t) (n : Nat) : run (n + 1) s = run n t := by
  simp only [run, h]

/-- A run goes on from where a shorter run got to. -/
theorem run_add {m : Nat} {s t : State} (h : run m s = .next t) (n : Nat) : run (m + n) s = run n t := by
  induction m generalizing s with
  | zero => cases h; rw [Nat.zero_add]
  | succ m ih =>
    rw [Nat.add_right_comm]
    simp only [run] at h ⊢
    split at h
    · exact ih h
    · cases h
    · cases h

/-- The first of some presented commands, where its word decodes to it, runs on the state that the rest is presented to. -/
theorem step_presenting_cons {i : Instr} (hd : decode (encode i) = .ok i) (is : List Instr) (s : State) :
    step (s.presenting (i :: is)) = exec i (s.presenting is) := by
  have h : step (s.presenting (i :: is)) = serveWith Config.hw exec (.command (encode i)) (s.presenting is) := rfl
  rw [h, serveWith, issueWith_ok hd]

@[simp] theorem runCommands_nil (s : State) : runCommands [] s = .next s := rfl

/-- What the host does after a command has no part in the command. -/
theorem exec_presenting {i : Instr} {s t : State} (h : exec i s = .next t) (is : List Instr) :
    exec i (s.presenting is) = .next (t.presenting is) := by
  rw [exec_eq_execIn] at h ⊢
  cases i <;>
    simp only [execIn, nopIn, crcInitIn, crcByteIn, crcCheckIn, stDecodeIn, taLoadIn, taCheckIn_cases, flagsClearIn, sresetIn,
      ifParser, Config.hw, Bool.true_and, if_true, Host.Outcome.next.injEq] at h ⊢
  case taCheck ta1 ta2 =>
    simp only [presenting_toBlock]
    split at h <;> rename_i hv <;> cases h <;> simp only [hv, if_true] <;> rfl
  all_goals (cases h; rfl)

/-- Commands run one by one: the first, then the rest from where it got to. -/
theorem runCommands_cons {i : Instr} {s t : State} (hd : decode (encode i) = .ok i) (h : exec i s = .next t)
    (is : List Instr) : runCommands (i :: is) s = runCommands is t :=
  run_succ_of_step ((step_presenting_cons hd is s).trans (exec_presenting h is)) is.length

end Sys2Proof.Machine
end

