-- ==== Sys2Proof/Tests/Slice0.lean ====
section
/-! SUPPORT. The model's own tests: the well-formedness smoke test, words written out from R72's opcode map, one-step vectors of
spec/95_test_vectors.md (V1 to V9), and a witness for every statement that has hypotheses. -/

namespace Sys2Proof.Tests

open Sys2Proof.Machine

/-- The state after a completed command has a property. -/
def after (r : Result) (p : State → Bool) : Bool :=
  match r with
  | .next t => p t
  | .fault _ => false
  | .refused _ => false

/-- The words a text of source assembles to. -/
def assembles (source : String) : Option (List CmdWord) := (assemble Config.hw source.toList).map (·.map encode)

/-- The parser-absent block of V8. -/
def noParser : Config := { Config.hw with parserPresent := false }

/-! ## Well-formedness -/

theorem test_parser_command_needs_the_parser : (Instr.stDecode 0x07#8).wellFormedIn noParser = false := by decide

theorem test_parser_command_is_well_formed_here : (Instr.stDecode 0x07#8).wellFormed = true := by decide

theorem test_empty_payload_is_ill_formed :
    (Pseudo.spWrchk 0x0000#16 [] 0xFF#8 0xFF#8).wellFormedIn Config.hw = false := by decide

theorem test_nine_byte_payload_is_ill_formed :
    (Pseudo.spWrchk 0x0000#16 (List.replicate 9 0x00#8) 0xFF#8 0xFF#8).wellFormedIn Config.hw = false := by decide

theorem test_read_check_needs_the_parser :
    (Pseudo.spRdchk 0x0008#16 0x08#8 0x00#8 0x07#8 [0x11#8] 0x00#8 0x00#8).wellFormedIn noParser = false := by decide

/-! ## Words bit by bit from R70's fields (RSV, OP, D1, D0) and R72's codes -/

theorem test_word_nop : decode 0b0000_0000_00000000_00000000#24 = .ok .nop := by rfl

theorem test_word_crcInit : decode 0b0000_0001_00000000_00000000#24 = .ok .crcInit := by rfl

theorem test_word_crcByte : decode 0b0000_0010_00000000_10000001#24 = .ok (.crcByte 0x81#8) := by rfl

theorem test_word_crcCheck : decode 0b0000_0011_10100000_00101110#24 = .ok (.crcCheck 0x2E#8 0xA0#8) := by rfl

theorem test_word_stDecode : decode 0b0000_0100_00000000_11111000#24 = .ok (.stDecode 0xF8#8) := by rfl

theorem test_word_taLoad : decode 0b0000_0101_00010010_00110100#24 = .ok (.taLoad 0x1234#16) := by rfl

theorem test_word_taCheck : decode 0b0000_0110_00001000_00000000#24 = .ok (.taCheck 0x00#8 0x08#8) := by rfl

theorem test_word_flagsClear : decode 0b0000_0111_00000000_00000000#24 = .ok .flagsClear := by rfl

theorem test_word_sreset : decode 0b0000_1111_00000000_00000000#24 = .ok .sreset := by rfl

/-- V7: the illegal words that no state makes legal, each by the condition of R150 it shows. -/
theorem test_illegal_words_rejected :
    decode 0x100000#24 = .error .reservedBitsSet ∧ decode 0xF20000#24 = .error .reservedBitsSet ∧
    decode 0x080000#24 = .error (.reservedOp 0x8#4) ∧ decode 0x0E0000#24 = .error (.reservedOp 0xE#4) ∧
    decode 0x000001#24 = .error (.operandsNotZero 0x00#8 0x01#8) ∧
    decode 0x010100#24 = .error (.operandsNotZero 0x01#8 0x00#8) ∧
    decode 0x070001#24 = .error (.operandsNotZero 0x00#8 0x01#8) ∧
    decode 0x0F0001#24 = .error (.operandsNotZero 0x00#8 0x01#8) ∧
    decode 0x02010F#24 = .error (.d1NotZero 0x01#8) ∧ decode 0x040107#24 = .error (.d1NotZero 0x01#8) :=
  ⟨rfl, rfl, rfl, rfl, rfl, rfl, rfl, rfl, rfl, rfl⟩

theorem test_table_word : decodeTableWord 24 0x03A02E = some (.crcCheck 0x2E#8 0xA0#8) := by decide

/-- The first step after reset runs the placed command. -/
theorem test_fetch_word_runs :
    after (step (State.reset.withFetchWord 24 0x02000F)) (fun t => t.acc == 0x0440#16 && t.inputs == []) = true := by decide +kernel

/-! ## One command each, from spec/95_test_vectors.md -/

/-- V1.7, V1.8. -/
theorem test_crcByte_vectors :
    crcUpdate Config.hw 0x1234#16 0x0F#8 = 0xD353#16 ∧ crcUpdate Config.hw 0x1234#16 0x56#8 = 0xE993#16 := by decide +kernel

/-- V3.6: a byte after a check drops the verdict and keeps RX_CRC. -/
theorem test_crcByte_drops_the_verdict :
    after (exec (.crcByte 0x00#8)
        { State.reset with acc := 0x5FD1#16, rxCrc := 0xA02E#16, crcOk := true, crcValid := true })
      (fun t => t.acc == 0x5C9F#16 && t.status == 0x00#8 && t.rxCrc == 0xA02E#16) = true := by decide +kernel

/-- V9.2, the normal branch: crc_update(0x0000, 0x01) = 0x8005. -/
theorem test_normal_branch :
    crcUpdate { Config.hw with crcReflected := false } 0x0000#16 0x01#8 = 0x8005#16 := by decide +kernel

/-- V2.4, V9.1 and V9.2: the published check values over "123456789". -/
theorem test_check_values :
    let digits : List Byte := [0x31#8, 0x32#8, 0x33#8, 0x34#8, 0x35#8, 0x36#8, 0x37#8, 0x38#8, 0x39#8]
    crcOut Config.hw (crcSpan Config.hw digits) = 0x44C2#16 ∧
    crcSpan ⟨0x1021#16, 0xFFFF#16, false, 0x0000#16, true, true⟩ digits = 0x29B1#16 ∧
    crcSpan ⟨0x8005#16, 0x0000#16, false, 0x0000#16, true, true⟩ digits = 0xFEE8#16 := by decide +kernel

/-- R103's example. -/
theorem test_crcInit :
    after (exec .crcInit { State.reset with acc := 0x1234#16, crcOk := true, crcValid := true })
      (fun t => t.acc == 0x0000#16 && t.status == 0x00#8) = true := by decide

/-- V3.1. -/
theorem test_crcCheck_matches :
    after (exec (.crcCheck 0x2E#8 0xA0#8) { State.reset with acc := 0x5FD1#16 })
      (fun t => t.rxCrc == 0xA02E#16 && t.status == 0x03#8 && t.acc == 0x5FD1#16) = true := by decide

/-- V3.2: the bytes swapped. -/
theorem test_crcCheck_swapped :
    after (exec (.crcCheck 0xA0#8 0x2E#8) { State.reset with acc := 0x5FD1#16 })
      (fun t => t.rxCrc == 0x2EA0#16 && t.status == 0x02#8) = true := by decide

/-- V4: 0x87 passes. -/
theorem test_stDecode_pass :
    after (exec (.stDecode 0x87#8) State.reset) (fun t => t.status == 0x0C#8 && t.es == 0x87#8) = true := by decide

/-- V4: 0xF8 fails. -/
theorem test_stDecode_fail :
    after (exec (.stDecode 0xF8#8) State.reset) (fun t => t.status == 0x08#8 && t.es == 0xF8#8) = true := by decide

/-- V5.6: a new expected address drops the echo verdict and keeps TA_ECHO. -/
theorem test_taLoad_drops_the_verdict :
    after (exec (.taLoad 0x0010#16) { State.reset with
        expAddr := 0x0008#16, taEcho := 0x0008#16, addrOk := true, addrValid := true, expValid := true })
      (fun t => t.expAddr == 0x0010#16 && t.taEcho == 0x0008#16 && t.status == 0x40#8) = true := by decide

/-- V5.2 and V5.3. -/
theorem test_taCheck :
    after (exec (.taCheck 0x08#8 0x00#8) { State.reset with expAddr := 0x0008#16, expValid := true })
      (fun t => t.taEcho == 0x0008#16 && t.status == 0x70#8) = true ∧
    after (exec (.taCheck 0x00#8 0x08#8) { State.reset with expAddr := 0x0008#16, expValid := true })
      (fun t => t.taEcho == 0x0800#16 && t.status == 0x60#8) = true := by decide

/-- V5.7: before any TA.LOAD it is illegal. -/
theorem test_taCheck_without_address :
    after (exec (.taCheck 0x00#8 0x00#8) State.reset) (fun t => t.status == 0x80#8 && t.taEcho == 0x0000#16) = true := by decide

/-- V6.1: STATUS = 0x43. -/
theorem test_nop :
    after (exec .nop { State.reset with acc := 0x5FD1#16, crcOk := true, crcValid := true, expValid := true })
      (fun t => t.status == 0x43#8 && t.acc == 0x5FD1#16) = true := by decide

/-- V6.3: STATUS = 0xFF. -/
theorem test_flagsClear :
    after (exec .flagsClear { State.reset with
        crcOk := true, crcValid := true, stPass := true, stValid := true, addrOk := true, addrValid := true,
        expValid := true, ill := true })
      (fun t => t.status == 0xC0#8) = true := by decide

/-- V6.4: STATUS = 0xC3. -/
theorem test_sreset :
    after (exec .sreset { State.reset with
        acc := 0x5FD1#16, expAddr := 0x0008#16, crcOk := true, crcValid := true, expValid := true, ill := true })
      (fun t => t == State.reset) = true := by decide

/-- V6.5: the eight reads after reset. -/
theorem test_reads_after_reset :
    [0#3, 1#3, 2#3, 3#3, 4#3, 5#3, 6#3, 7#3].map (regRead Config.hw State.reset.toBlock) =
      [0x0000#16, 0xFFFF#16, 0x0000#16, 0x0000#16, 0x0000#16, 0x0000#16, 0x0000#16, 0x0007#16] := by decide

/-- V7.12: an illegal command keeps the earlier verdict. -/
theorem test_illegal_keeps_the_verdict :
    after (issue 0x090000#24 { State.reset with acc := 0x0440#16, crcOk := true, crcValid := true })
      (fun t => t.acc == 0x0440#16 && t.status == 0x83#8) = true := by decide

/-- V8: without the parser, TA.LOAD is illegal and CONFIG reads 0x0006. -/
theorem test_parser_absent :
    after (issueIn noParser 0x050008#24 (State.resetIn noParser))
      (fun t => t.status == 0x80#8 && t.expAddr == 0x0000#16 && regRead noParser t.toBlock 7#3 == 0x0006#16) = true := by decide

/-! ## The assembler (R75, R76) -/

theorem test_assemble_command : assembles "CRC.CHECK 0x2E, 0xA0 ; V3.1" = some [0x03A02E#24] := by decide

theorem test_assemble_rejects_out_of_range : assembles "CRC.BYTE 256" = none := by decide

/-- R76's first expansion, on program P1's first two bytes. -/
theorem test_assemble_span : assembles "CRC.SPAN [0x0F, 0]" = some [0x010000#24, 0x02000F#24, 0x020000#24] := by decide

/-! ## Witnesses: every statement's hypotheses are met by a concrete state and operands -/

theorem witness_EncodeOfDecodeIsTheWord : decode 0x03A02E#24 = .ok (.crcCheck 0x2E#8 0xA0#8) := by rfl

/-- Both sides of R72: a word that decodes, and a row that accepts a word. -/
theorem witness_DecodeAcceptsExactlyTheOpcodeRows :
    decode 0x0F0000#24 = .ok .sreset ∧ ∃ r ∈ opcodeRows, r.accepts 0x0F0000#24 = true := by
  exact ⟨rfl, ⟨"SRESET", 0x0F0000#24, 0xFFFFFF#24⟩, by decide, by decide⟩

theorem witness_OpcodeRowsNeverOverlap : ∃ r ∈ opcodeRows, r.accepts 0x02FF00#24 = false ∧ r.accepts 0x0200FF#24 = true := by
  exact ⟨⟨"CRC.BYTE", 0x020000#24, 0xFFFF00#24⟩, by decide, by decide, by decide⟩

/-- R150's six conditions, each at a boundary, and words just outside them. -/
theorem witness_IllegalCommandsSetOnlyIll :
    IllegalCommand Config.hw true 0x100000#24 ∧ IllegalCommand Config.hw true 0x080000#24 ∧
    IllegalCommand Config.hw true 0x0E0000#24 ∧ IllegalCommand Config.hw true 0x000001#24 ∧
    IllegalCommand Config.hw true 0x020100#24 ∧ IllegalCommand noParser true 0x050000#24 ∧
    IllegalCommand Config.hw false 0x060000#24 ∧
    ¬ IllegalCommand Config.hw true 0x060000#24 ∧ ¬ IllegalCommand Config.hw false 0x070000#24 ∧
    ¬ IllegalCommand Config.hw false 0x0F0000#24 :=
  ⟨by decide, by decide, by decide, by decide, by decide, by decide, by decide, by decide, by decide, by decide⟩

theorem witness_StepRunsTheDecodedCommand : decode 0x010000#24 = .ok .crcInit := by rfl

theorem witness_StepFlagsAnUndecodableWord : decode 0x080000#24 = .error (.reservedOp 0x8#4) := by rfl

theorem witness_StepAlwaysAnswersANextState : State.reset.inputs = [] := by rfl

theorem witness_EachEventIsConsumedOnce :
    ∃ s t : State, s.inputs = .read 1#3 :: [.powerOnReset] ∧ step s = .next t ∧ t.reads = [(1#3, 0xFFFF#16)] := by
  exact ⟨{ State.reset with inputs := [.read 1#3, .powerOnReset] }, _, rfl, rfl, by decide⟩

/-- Events that append nothing: a command word and a power-on reset. -/
theorem witness_only_a_read_may_append :
    (∃ s t : State, s.inputs = .command 0x02000F#24 :: [] ∧ step s = .next t ∧ t.reads = s.reads) ∧
    ∃ s t : State, s.inputs = .powerOnReset :: [.read 0#3] ∧ step s = .next t ∧ t.reads = s.reads :=
  ⟨⟨{ State.reset with inputs := [.command 0x02000F#24] }, _, rfl, rfl, rfl⟩,
    { State.reset with inputs := [.powerOnReset, .read 0#3], reads := [(1#3, 0xFFFF#16)] }, _, rfl, rfl, rfl⟩

theorem witness_ReadsShowEveryStoredBit :
    Config.hw.parserPresent = true ∧ ∀ a, regRead Config.hw State.reset.toBlock a = regRead Config.hw (Block.reset Config.hw) a :=
  ⟨rfl, fun _ => rfl⟩

theorem witness_CrcUpdateByTable : Config.hw.crcReflected = true := by rfl

/-- The one-byte span 0x0F with its bit 7 changed, checked against the CRC bytes of 0x0F (V2.5: BF FB). -/
theorem witness_OneBitChangeInASpanIsDetected :
    ∃ s t : State, (7 : Nat) < 8 ∧ s.acc = crcSpan Config.hw ([] ++ [0x0F#8 ^^^ (1#8 <<< 7)] ++ []) ∧
      appendedCrc Config.hw ([] ++ [0x0F#8] ++ []) = (0xBF#8, 0xFB#8) ∧ exec (.crcCheck 0xBF#8 0xFB#8) s = .next t :=
  ⟨{ State.reset with acc := crcSpan Config.hw [0x0F#8 ^^^ (1#8 <<< 7)] }, _, by decide, rfl, by decide +kernel, rfl⟩

/-- A nonzero operand byte in either place: CRC.INIT, CRC.BYTE, ST.DECODE, NOP, FLAGS.CLEAR and SRESET have illegal forms. -/
theorem witness_illegal_forms : (0x00#8 ≠ 0#8 ∨ 0x01#8 ≠ 0#8) ∧ (0x01#8 ≠ 0#8 ∨ 0x00#8 ≠ 0#8) ∧ 0xFF#8 ≠ 0#8 := by decide

theorem witness_BytesWithoutInitExtendTheOldSpan :
    ({ State.reset with acc := 0x0440#16 } : State).acc = crcSpan Config.hw [0x0F#8] := by decide +kernel

/-- The parser-absent clauses of ST.DECODE, TA.LOAD and TA.CHECK, and of R3. -/
theorem witness_ParserAbsentMeansIllegalAndZero :
    noParser.parserPresent = false ∧ (Instr.taCheck 0x00#8 0x00#8).wellFormedIn noParser = false := by decide

theorem witness_TaCheckComparesTheEcho : ({ State.reset with expValid := true } : State).expValid = true := by rfl

theorem witness_TaCheckIsIllegalWithoutAnExpectedAddress : State.reset.expValid = false := by rfl

theorem witness_EngineReadingsFollowTheBytes :
    ∃ t u : State, runCommands (Pseudo.spWrchk 0x0000#16 [0x11#8] 0x3C#8 0xE7#8).expand State.reset = .next t ∧
      runCommands (Pseudo.spRdchk 0x0000#16 0x00#8 0x00#8 0x07#8 [0x11#8] 0x25#8 0xDB#8).expand State.reset = .next u :=
  ⟨_, _, rfl, rfl⟩

/-- Coherent states with and without verdicts, an incoherent one, a step from reset and a run of two steps. -/
theorem witness_EveryStepKeepsVerdictsCoherent :
    State.reset.toBlock.Coherent ∧
    ({ State.reset with crcOk := true, crcValid := true, addrValid := true, expValid := true } : State).toBlock.Coherent ∧
    ¬ ({ State.reset with crcOk := true } : State).toBlock.Coherent ∧
    (∃ t, step State.reset = .next t) ∧ (∃ t, stepIn noParser State.reset = .next t) ∧
    ∃ t, run 2 { State.reset with inputs := [.command 0x050008#24, .command 0x060008#24] } = .next t ∧ t.addrOk = true :=
  ⟨by decide, by decide, by decide, ⟨_, rfl⟩, ⟨_, rfl⟩, _, rfl, by decide⟩

theorem witness_ParserAbsentStaysClear :
    noParser.parserPresent = false ∧ (State.resetIn noParser).toBlock.ParserClear ∧
      ∃ t, stepIn noParser { State.resetIn noParser with inputs := [.command 0x050008#24] } = .next t ∧ t.ill = true :=
  ⟨rfl, by decide, _, rfl, rfl⟩

/-- ILL set before the step, once with SRESET's word and once with another. -/
theorem witness_IllIsClearedOnlyByReset :
    (∃ t, step { State.reset with ill := true, inputs := [.command 0x0F0000#24] } = .next t ∧ t.ill = false) ∧
    ∃ t, step { State.reset with ill := true, inputs := [.command 0x070000#24] } = .next t ∧ t.ill = true :=
  ⟨⟨_, rfl, rfl⟩, _, rfl, rfl⟩

theorem witness_SresetResetsEveryField :
    Instr.taCheck 0x00#8 0x00#8 ≠ .sreset ∧
      ∃ t, exec (.taCheck 0x00#8 0x00#8) { State.reset with ill := true } = .next t ∧ t.ill = true :=
  ⟨by decide, _, rfl, rfl⟩

/-- A word that decodes to nothing; a command that writes its register; TA.CHECK in its illegal form. -/
theorem witness_OnlyNamedCommandsWriteAField :
    decode 0x090000#24 = .error (.reservedOp 0x9#4) ∧
    (∃ t, exec (.crcCheck 0xFF#8 0xFF#8) State.reset = .next t ∧ t.rxCrc ≠ State.reset.rxCrc) ∧
    ∃ t, State.reset.expValid = false ∧ exec (.taCheck 0x08#8 0x00#8) State.reset = .next t ∧ t.ill = true :=
  ⟨rfl, ⟨_, rfl, by decide⟩, _, rfl, rfl, rfl⟩

theorem witness_OnlyCrcByteIsNotIdempotent :
    (∀ b, (0x0F0000#24 : CmdWord) ≠ encode (.crcByte b)) ∧ ∃ t, issue 0x0F0000#24 State.reset = .next t :=
  ⟨by decide, _, rfl⟩

theorem witness_CrcAndParserDoNotFeedEachOther :
    ∃ t t' : State, exec (.crcByte 0x0F#8) State.reset = .next t ∧
      exec (.crcByte 0x0F#8) { State.reset with es := 0x07#8, expValid := true } = .next t' ∧
      State.reset.toBlock.crcSide = ({ State.reset with es := 0x07#8, expValid := true } : State).toBlock.crcSide :=
  ⟨_, _, rfl, rfl, rfl⟩

/-- The parser side's clause: two states that differ only on the CRC side. -/
theorem witness_parser_side_clause :
    ∃ t t' : State, exec (.stDecode 0x07#8) State.reset = .next t ∧
      exec (.stDecode 0x07#8) { State.reset with acc := 0xFFFF#16, crcValid := true } = .next t' ∧
      State.reset.toBlock.parserSide = ({ State.reset with acc := 0xFFFF#16, crcValid := true } : State).toBlock.parserSide :=
  ⟨_, _, rfl, rfl, rfl⟩

end Sys2Proof.Tests
end

/-! The two branches of `crc_update` are mirror images (spec/00_scope.md R2, spec/40_crc_engine.md R100), and what a block without
the parser answers (R3). -/

namespace Sys2Proof.Machine

/-! ## Reversing the bits of a value -/

theorem reverse_xor {w : Nat} (x y : BitVec w) : (x ^^^ y).reverse = x.reverse ^^^ y.reverse := by
  ext k hk
  simp only [BitVec.getElem_xor, BitVec.getElem_reverse, BitVec.getMsbD_xor]

/-- Reversed bits move the other way. -/
theorem reverse_shiftLeft {w : Nat} (v : BitVec w) (n : Nat) : (v <<< n).reverse = v.reverse >>> n := by
  ext k hk
  simp only [BitVec.getElem_reverse, BitVec.getMsbD_shiftLeft, BitVec.getElem_ushiftRight, BitVec.getLsbD_reverse, Nat.add_comm]

/-- A byte that enters at the top of the accumulator (normal branch) mirrors one that enters at the bottom. -/
theorem reverse_byteAtTop (b : Byte) : (b.setWidth 16 <<< 8 : Half).reverse = b.reverse.setWidth 16 := by
  ext k hk
  simp only [BitVec.getElem_reverse, BitVec.getMsbD_shiftLeft, BitVec.getMsbD_setWidth, BitVec.getElem_setWidth,
    BitVec.getLsbD_reverse]
  grind

/-! ## The loop of `crc_update`, turn by turn -/

/-- A turn of the normal branch, seen reversed, is a turn of the reflected branch (R100). -/
theorem reverse_crcShiftLeft (c : Config) (v : Half) : (crcShiftLeft c v).reverse = crcShiftRight c v.reverse := by
  have hbit : v.reverse.getLsbD 0 = v.getLsbD 15 := reflect16_getLsbD v 0 (by decide)
  unfold crcShiftLeft crcShiftRight reflect16
  rw [hbit, ← reverse_shiftLeft, ← reverse_xor]
  split <;> rfl

/-- Loop bodies that mirror each other make loops that mirror each other. -/
theorem reverse_turns {f g : Half → Half} (hfg : ∀ v, (f v).reverse = g v.reverse) (n : Nat) (v : Half) :
    (turns f n v).reverse = turns g n v.reverse := by
  induction n generalizing v with
  | zero => rfl
  | succ n ih => rw [turns_succ, turns_succ, ih, hfg]

theorem crcUpdate_reflected {c : Config} (h : c.crcReflected = true) (acc : Half) (b : Byte) :
    crcUpdate c acc b = turns (crcShiftRight c) 8 (acc ^^^ b.setWidth 16) := by
  simp [crcUpdate, h]

theorem crcUpdate_normal {c : Config} (h : c.crcReflected = false) (acc : Half) (b : Byte) :
    crcUpdate c acc b = turns (crcShiftLeft c) 8 (acc ^^^ (b.setWidth 16 <<< 8)) := by
  simp [crcUpdate, h]

/-- Settles O21: reversing commutes with each turn of the loop and with the byte's entry, so with the whole update; no
turn reads CRC_REFLECTED itself. -/
theorem crcBranchesMirrorEachOther : Obligations.CrcBranchesMirrorEachOther := by
  intro c acc b
  rw [crcUpdate_reflected rfl, crcUpdate_normal rfl, reverse_turns (reverse_crcShiftLeft _), reverse_xor, reverse_byteAtTop,
    BitVec.reverse_reverse_eq, BitVec.reverse_reverse_eq]
  rfl

/-! ## The block without the parser -/

/-- A command is missing from a block exactly when it is a parser command and the block has no parser (R3). -/
theorem wellFormedIn_eq_false {c : Config} {i : Instr} :
    i.wellFormedIn c = false ↔ c.parserPresent = false ∧ i.isParser = true := by
  simp [Instr.wellFormedIn]

/-- Without the parser every parser command is illegal (R3, R150 condition 5). -/
theorem execIn_parser_absent {c : Config} {i : Instr} (hc : c.parserPresent = false) (hi : i.isParser = true) (s : State) :
    execIn c i s = raiseIllegal s := by
  cases i with
  | stDecode es => exact ifParser_absent hc _ s
  | taLoad a => exact ifParser_absent hc _ s
  | taCheck ta1 ta2 => exact ifParser_absent hc _ s
  | _ => cases hi

theorem parserView_absent {c : Config} (h : c.parserPresent = false) (v : Half) : parserView c v = 0x0000#16 := by
  simp [parserView, h]

/-- CONFIG bit 0 is PARSER_PRESENT (R30). -/
theorem configWord_getLsbD_zero (c : Config) : (configWord c).getLsbD 0 = c.parserPresent := by
  simp only [configWord, BitVec.getLsbD_setWidth, BitVec.getLsbD_append, BitVec.getLsbD_ofBool]
  simp

/-- Settles O38: the illegal commands, the registers that read 0, CONFIG bit 0, and this hardware's parser. -/
theorem parserAbsentMeansIllegalAndZero : Obligations.ParserAbsentMeansIllegalAndZero := by
  refine ⟨fun c i s h => ?_, fun c b h => ⟨?_, ?_, ?_, ?_⟩, rfl⟩
  · obtain ⟨hc, hi⟩ := wellFormedIn_eq_false.mp h
    exact execIn_parser_absent hc hi s
  · exact parserView_absent h _
  · exact parserView_absent h _
  · exact parserView_absent h _
  · exact (configWord_getLsbD_zero c).trans h

end Sys2Proof.Machine

/-! The block's state (spec/10_state.md): the read map (R32), CONFIG (R30) and STATUS (R25), what a command can do to a state
(R33), and the two invariants that every step keeps (R34, R31). -/

namespace Sys2Proof.Machine

/-! ## CONFIG, STATUS and the read map -/

/-- CONFIG bit by bit (R30). -/
theorem configWord_getLsbD (c : Config) (k : Nat) : (configWord c).getLsbD k =
    if k = 0 then c.parserPresent else if k = 1 then c.crcReflected else if k = 2 then c.crcWireLsbFirst else false := by
  simp only [configWord, BitVec.getLsbD_setWidth, BitVec.getLsbD_append, BitVec.getLsbD_ofBool]
  match k with
  | 0 | 1 | 2 => simp
  | k + 3 => simp

/-- Settles O14: no state enters CONFIG, whose bits are the three parameters. -/
theorem configIsHardwired : Obligations.ConfigIsHardwired :=
  ⟨fun _ _ _ => rfl, fun c _ k => configWord_getLsbD c k, fun _ => rfl⟩

/-- Settles O15: each bit of the word is found by skipping the flags appended below it. -/
theorem statusBitLayout : Obligations.StatusBitLayout := by
  intro b
  simp only [Block.status, BitVec.getLsbD_append, BitVec.getLsbD_ofBool]
  simp

/-- Settles O13: the map row by row; after reset each of the eight reads is computed. -/
theorem registerReadMap : Obligations.RegisterReadMap :=
  ⟨fun _ _ => ⟨rfl, rfl, rfl, rfl, rfl, rfl, rfl, rfl⟩, by decide⟩

theorem parserView_present {c : Config} (h : c.parserPresent = true) (v : Half) : parserView c v = v := by
  simp [parserView, h]

/-- A byte read zero-extended shows all its bits (R32). -/
theorem byte_of_zeroExtended {x y : Byte} (h : x.setWidth 16 = y.setWidth 16) : x = y := by
  have hx := congrArg (BitVec.setWidth 8) h
  simpa using hx

/-- The STATUS word shows all eight flags (R25, R35). -/
theorem flags_of_status {b b' : Block} (h : b.status = b'.status) :
    b.crcOk = b'.crcOk ∧ b.crcValid = b'.crcValid ∧ b.stPass = b'.stPass ∧ b.stValid = b'.stValid ∧
      b.addrOk = b'.addrOk ∧ b.addrValid = b'.addrValid ∧ b.expValid = b'.expValid ∧ b.ill = b'.ill := by
  have hlayout := statusBitLayout b
  rw [h] at hlayout
  obtain ⟨h0, h1, h2, h3, h4, h5, h6, h7⟩ := hlayout
  obtain ⟨h0', h1', h2', h3', h4', h5', h6', h7'⟩ := statusBitLayout b'
  exact ⟨h0.symm.trans h0', h1.symm.trans h1', h2.symm.trans h2', h3.symm.trans h3', h4.symm.trans h4', h5.symm.trans h5',
    h6.symm.trans h6', h7.symm.trans h7'⟩

/-- Settles O16: indexes 0 and 3 to 6 show the registers, and index 2 the eight flags. -/
theorem readsShowEveryStoredBit : Obligations.ReadsShowEveryStoredBit := by
  intro c b b' hc hread
  have hacc : b.acc = b'.acc := hread 0
  have hrx : b.rxCrc = b'.rxCrc := hread 3
  have hview {v v' : Half} (h : parserView c v = parserView c v') : v = v' := by
    rwa [parserView_present hc, parserView_present hc] at h
  have hes : b.es = b'.es := byte_of_zeroExtended (hview (hread 4))
  have hecho : b.taEcho = b'.taEcho := hview (hread 5)
  have hexp : b.expAddr = b'.expAddr := hview (hread 6)
  have hflags := flags_of_status (byte_of_zeroExtended (hread 2))
  cases b
  cases b'
  rw [Block.mk.injEq]
  exact ⟨hacc, hrx, hes, hecho, hexp, hflags⟩

/-- Settles O11: the read is taken from the host's events and answered; the block is not written. -/
theorem readAnswersAndChangesNothing : Obligations.ReadAnswersAndChangesNothing := by
  intro s a rest
  exact stepWith_cons Config.hw exec (s := { s with inputs := .read a :: rest }) rfl

/-! ## What a command can do to a state -/

/-- The outcomes of a command, one by one (R33): its meaning's effect, or, for a parser command, one of the two illegal ones. -/
inductive CommandEffect (c : Config) (s : State) : Instr → State → Prop where
  | nop : CommandEffect c s .nop s
  | crcInit : CommandEffect c s .crcInit (s.setAcc c.crcInit)
  | crcByte (b : Byte) : CommandEffect c s (.crcByte b) (s.setAcc (crcUpdate c s.acc b))
  | crcCheck (c0 c1 : Byte) : CommandEffect c s (.crcCheck c0 c1)
      { s with rxCrc := wireValue c c0 c1, crcOk := crcMatches c s.acc (wireValue c c0 c1), crcValid := true }
  | stDecode (es : Byte) (hc : c.parserPresent = true) : CommandEffect c s (.stDecode es)
      { s with es := es, stPass := stPassCheck es, stValid := true }
  | taLoad (a : Half) (hc : c.parserPresent = true) : CommandEffect c s (.taLoad a)
      { s with expAddr := a, expValid := true, addrOk := false, addrValid := false }
  | taCheck (ta1 ta2 : Byte) (hc : c.parserPresent = true) (hexp : s.expValid = true) :
      CommandEffect c s (.taCheck ta1 ta2) (s.checkEcho (echoAddress ta1 ta2))
  | flagsClear : CommandEffect c s .flagsClear
      { s with crcOk := false, crcValid := false, stPass := false, stValid := false, addrOk := false, addrValid := false }
  | sreset : CommandEffect c s .sreset (s.resetBlock c)
  /-- R150 condition 5. -/
  | parserAbsent (i : Instr) (hi : i.isParser = true) (hc : c.parserPresent = false) :
      CommandEffect c s i { s with ill := true }
  /-- R150 condition 6. -/
  | noExpectedAddress (ta1 ta2 : Byte) (hc : c.parserPresent = true) (hexp : s.expValid = false) :
      CommandEffect c s (.taCheck ta1 ta2) { s with ill := true }

/-- Every command that answers a next state has one of these effects. -/
theorem commandEffect_of_execIn {c : Config} {i : Instr} {s t : State} (h : execIn c i s = .next t) :
    CommandEffect c s i t := by
  cases i with
  | nop => cases h; exact .nop
  | crcInit => cases h; exact .crcInit
  | crcByte b => cases h; exact .crcByte b
  | crcCheck c0 c1 => cases h; exact .crcCheck c0 c1
  | flagsClear => cases h; exact .flagsClear
  | sreset => cases h; exact .sreset
  | stDecode es =>
    obtain ⟨hc, h⟩ | ⟨hc, rfl⟩ := ifParser_next.mp h
    · cases h; exact .stDecode es hc
    · exact .parserAbsent _ rfl hc
  | taLoad a =>
    obtain ⟨hc, h⟩ | ⟨hc, rfl⟩ := ifParser_next.mp h
    · cases h; exact .taLoad a hc
    · exact .parserAbsent _ rfl hc
  | taCheck ta1 ta2 =>
    obtain ⟨hc, h⟩ | ⟨hc, rfl⟩ := ifParser_next.mp h
    · cases hexp : s.expValid with
      | true => rw [hexp] at h; cases h; exact .taCheck ta1 ta2 hc hexp
      | false => rw [hexp] at h; cases h; exact .noExpectedAddress ta1 ta2 hc hexp
    · exact .parserAbsent _ rfl hc

/-- Settles O48: the effects one by one; for each, the columns of R33 and R25 that do not name the command read a field that
its effect leaves alone. -/
theorem onlyNamedCommandsWriteAField : Obligations.OnlyNamedCommandsWriteAField := by
  refine ⟨fun w e s h => issueWith_error h s, fun i s t h => ?_⟩
  rw [exec_eq_execIn] at h
  cases commandEffect_of_execIn h with
  | nop | crcInit | crcByte | crcCheck | stDecode | taLoad | flagsClear | sreset => simp [Instr.mnemonic]
  | taCheck _ _ _ hexp | noExpectedAddress _ _ _ hexp => simp [Instr.mnemonic, hexp]
  | parserAbsent _ _ hc => cases hc

/-! ## What every step keeps -/

/-- This hardware's step is the configured one at `Config.hw`. -/
theorem step_eq_stepIn (s : State) : step s = stepIn Config.hw s := by
  have hexec : exec = execIn Config.hw := funext fun i => funext fun s => exec_eq_execIn i s
  rw [step, stepIn, hexec]

/-- A property of the block that reset, an illegal command and every command keep is kept by every step: reads, and steps with
no event, do not touch the block. -/
theorem stepIn_keeps {c : Config} {P : Block → Prop} (hreset : P (Block.reset c))
    (hill : ∀ b : Block, P b → P { b with ill := true })
    (hexec : ∀ (i : Instr) (s t : State), P s.toBlock → execIn c i s = .next t → P t.toBlock)
    {s t : State} (hs : P s.toBlock) (h : stepIn c s = .next t) : P t.toBlock := by
  cases hin : s.inputs with
  | nil =>
    cases (stepWith_nil c (execIn c) hin).symm.trans h
    exact hs
  | cons e rest =>
    replace h := (stepWith_cons c (execIn c) hin).symm.trans h
    cases e with
    | command w =>
      cases hw : decode w with
      | ok i => exact hexec i { s with inputs := rest } t hs ((issueWith_ok hw _).symm.trans h)
      | error e =>
        cases (issueWith_error (run := execIn c) hw { s with inputs := rest }).symm.trans h
        exact hill s.toBlock hs
    | read a => cases h; exact hs
    | powerOnReset => cases h; exact hreset

/-- A property of states that every step keeps holds at the end of every run that starts with it. -/
theorem run_keeps {P : State → Prop} (hstep : ∀ s t : State, P s → step s = .next t → P t) (n : Nat) {s t : State}
    (hs : P s) (h : run n s = .next t) : P t := by
  induction n generalizing s with
  | zero => cases h; exact hs
  | succ n ih =>
    cases hu : step s with
    | next u => exact ih (hstep s u hs hu) ((run_succ_of_step hu n).symm.trans h)
    | fault r => cases r
    | refused r => simp [run, hu] at h

/-! ### The verdict flags (R34) -/

theorem reset_coherent (c : Config) : (Block.reset c).Coherent := ⟨nofun, nofun, nofun, nofun⟩

/-- Every command keeps R34: one that sets a verdict sets its VALID flag, TA.CHECK runs only while an address is held, and
TA.LOAD drops the echo verdict. -/
theorem execIn_keeps_coherent {c : Config} {i : Instr} {s t : State} (hs : s.toBlock.Coherent)
    (h : execIn c i s = .next t) : t.toBlock.Coherent := by
  obtain ⟨hcrc, hst, haddr, hecho⟩ := hs
  cases commandEffect_of_execIn h with
  | nop | parserAbsent | noExpectedAddress => exact ⟨hcrc, hst, haddr, hecho⟩
  | crcInit | crcByte => exact ⟨nofun, hst, haddr, hecho⟩
  | crcCheck => exact ⟨fun _ => rfl, hst, haddr, hecho⟩
  | stDecode => exact ⟨hcrc, fun _ => rfl, haddr, hecho⟩
  | taLoad => exact ⟨hcrc, hst, nofun, nofun⟩
  | taCheck _ _ _ hexp => exact ⟨hcrc, hst, fun _ => rfl, fun _ => hexp⟩
  | flagsClear => exact ⟨nofun, nofun, nofun, nofun⟩
  | sreset => exact reset_coherent c

theorem stepIn_keeps_coherent {c : Config} {s t : State} (hs : s.toBlock.Coherent) (h : stepIn c s = .next t) :
    t.toBlock.Coherent :=
  stepIn_keeps (P := Block.Coherent) (reset_coherent c) (fun _ hb => hb) (fun _ _ _ => execIn_keeps_coherent) hs h

theorem step_keeps_coherent (s t : State) (hs : s.toBlock.Coherent) (h : step s = .next t) : t.toBlock.Coherent :=
  stepIn_keeps_coherent hs ((step_eq_stepIn s).symm.trans h)

/-- Settles O44: the step lemma in any configuration, and an induction over runs from the coherent reset state. -/
theorem everyStepKeepsVerdictsCoherent : Obligations.EveryStepKeepsVerdictsCoherent :=
  ⟨step_keeps_coherent, fun _ _ _ => stepIn_keeps_coherent,
    fun _ n _ h => run_keeps (P := fun s => s.toBlock.Coherent) step_keeps_coherent n (reset_coherent Config.hw) h⟩

/-! ### The block without the parser (R31) -/

theorem reset_parserClear (c : Config) : (Block.reset c).ParserClear := ⟨rfl, rfl, rfl, rfl, rfl, rfl, rfl, rfl⟩

/-- Settles O45: every flag and every parser register resets to 0. -/
theorem resetSatisfiesTheInvariants : Obligations.ResetSatisfiesTheInvariants :=
  ⟨reset_coherent Config.hw, fun c => ⟨reset_coherent c, reset_parserClear c⟩⟩

/-- Without the parser no command writes the parser's fields but FLAGS.CLEAR and SRESET, which clear them. -/
theorem execIn_keeps_parserClear {c : Config} (hc : c.parserPresent = false) {i : Instr} {s t : State}
    (hs : s.toBlock.ParserClear) (h : execIn c i s = .next t) : t.toBlock.ParserClear := by
  have hpresent : ¬ c.parserPresent = true := by simp [hc]
  cases commandEffect_of_execIn h with
  | nop | crcInit | crcByte | crcCheck | parserAbsent => exact hs
  | stDecode _ hp | taLoad _ hp | taCheck _ _ hp | noExpectedAddress _ _ hp => exact absurd hp hpresent
  | flagsClear =>
    obtain ⟨-, -, -, -, hregs⟩ := hs
    exact ⟨rfl, rfl, rfl, rfl, hregs⟩
  | sreset => exact reset_parserClear c

/-- Bits 2 to 6 of STATUS are the parser's flags (R25), so they read 0 in a block that holds nothing of the parser. -/
theorem status_read_of_parserClear (c : Config) {b : Block} (h : b.ParserClear) (k : Nat) (hlo : 2 ≤ k) (hhi : k ≤ 6) :
    (regRead c b 2).getLsbD k = false := by
  obtain ⟨hpass, hst, hok, haddr, hexp, -⟩ := h
  obtain ⟨-, -, h2, h3, h4, h5, h6, -⟩ := statusBitLayout b
  have hread : (regRead c b 2).getLsbD k = b.status.getLsbD k := by
    change (b.status.setWidth 16).getLsbD k = _
    rw [BitVec.getLsbD_setWidth, decide_eq_true (by omega), Bool.true_and]
  rw [hread]
  match k with
  | 2 => exact h2.trans hpass
  | 3 => exact h3.trans hst
  | 4 => exact h4.trans hok
  | 5 => exact h5.trans haddr
  | 6 => exact h6.trans hexp

/-- Settles O46: the step keeps the parser's fields clear, and the reads show no more than them. -/
theorem parserAbsentStaysClear : Obligations.ParserAbsentStaysClear := by
  intro c s t hc hs h
  have ht : t.toBlock.ParserClear :=
    stepIn_keeps (P := Block.ParserClear) (reset_parserClear c) (fun _ hb => hb)
      (fun _ _ _ => execIn_keeps_parserClear hc) hs h
  exact ⟨ht, parserView_absent hc _, parserView_absent hc _, parserView_absent hc _, status_read_of_parserClear c ht⟩

end Sys2Proof.Machine

/-! Memory, ports and ordering (spec/20_memory.md): events are consumed one by one (R56, R60), a command is atomic and the next
read sees what it left (R55, R57), and repeating a word is harmless except for CRC.BYTE (R63). -/

namespace Sys2Proof

/-! ## A word that decodes is its command's own word -/

/-- What the opcode map accepts, it accepts for that command's operation code and operand bytes (R71, R72). -/
theorem decodeOp_ok {op : BitVec 4} {d1 d0 : Byte} {i : Instr} (h : decodeOp op d1 d0 = .ok i) :
    op = i.op ∧ d1 = i.operandBytes.1 ∧ d0 = i.operandBytes.2 := by
  unfold decodeOp at h
  split at h
  case h_1 hn | h_2 hn | h_8 hn | h_9 hn =>
    obtain ⟨rfl, rfl, rfl⟩ := formNone_ok.mp h
    exact ⟨BitVec.eq_of_toNat_eq hn, rfl, rfl⟩
  case h_3 hn | h_5 hn =>
    obtain ⟨rfl, rfl⟩ := formImm8_ok.mp h
    exact ⟨BitVec.eq_of_toNat_eq hn, rfl, rfl⟩
  case h_4 hn | h_7 hn =>
    cases h
    exact ⟨BitVec.eq_of_toNat_eq hn, rfl, rfl⟩
  case h_6 hn =>
    cases h
    exact ⟨BitVec.eq_of_toNat_eq hn, BitVec.extractLsb'_append_eq_left.symm, BitVec.extractLsb'_append_eq_right.symm⟩
  case h_10 => cases h

/-- The decoder takes a command from that command's own word only (R70, R72). -/
theorem encode_of_decode {w : CmdWord} {i : Instr} (h : decode w = .ok i) : encode i = w := by
  unfold decode at h
  split at h
  next hrsv =>
    obtain ⟨hop, hd1, hd0⟩ := decodeOp_ok h
    rw [encode, ← hop, ← hd1, ← hd0, ← hrsv, packWord_fields]
  next => cases h

end Sys2Proof

namespace Sys2Proof.Machine

/-! ## What a presented word can do -/

/-- A parser command that completes where the parser is completes where it is not, too (R151). -/
theorem ifParser_completes (c : Config) (t s : State) : ∃ u, ifParser c (.next t) s = .next u := by
  cases hc : c.parserPresent with
  | true => exact ⟨t, ifParser_present hc _ s⟩
  | false => exact ⟨_, ifParser_absent hc _ s⟩

/-- Every command completes (R154). -/
theorem execIn_completes (c : Config) (i : Instr) (s : State) : ∃ t, execIn c i s = .next t := by
  cases i with
  | nop | crcInit | crcByte | crcCheck | flagsClear | sreset => exact ⟨_, rfl⟩
  | stDecode | taLoad => exact ifParser_completes c _ s
  | taCheck ta1 ta2 =>
    rw [execIn, taCheckIn_cases]
    split <;> exact ⟨_, rfl⟩

/-- What a word does: the command it stands for, or an illegal command (R73). -/
theorem issue_next {w : CmdWord} {s t : State} (h : issue w s = .next t) :
    (∃ i, decode w = .ok i ∧ execIn Config.hw i s = .next t) ∨ (∃ e, decode w = .error e) ∧ t = { s with ill := true } := by
  cases hw : decode w with
  | ok i => exact .inl ⟨i, rfl, (exec_eq_execIn i s).symm.trans ((issueWith_ok hw s).symm.trans h)⟩
  | error e =>
    cases (issueWith_error (run := exec) hw s).symm.trans h
    exact .inr ⟨⟨e, rfl⟩, rfl⟩

/-- Every word completes, legal or not (R154). -/
theorem issue_completes (w : CmdWord) (s : State) : ∃ t, issue w s = .next t := by
  cases hw : decode w with
  | ok i =>
    obtain ⟨t, ht⟩ := execIn_completes Config.hw i s
    exact ⟨t, (issueWith_ok hw s).trans ((exec_eq_execIn i s).trans ht)⟩
  | error e => exact ⟨_, issueWith_error hw s⟩

/-- The host's side of the ports is out of every word's reach. -/
theorem issue_keeps_host {w : CmdWord} {s t : State} (h : issue w s = .next t) : t.inputs = s.inputs ∧ t.reads = s.reads := by
  obtain ⟨i, -, h⟩ | ⟨-, rfl⟩ := issue_next h
  · exact execIn_keeps_host h
  · exact ⟨rfl, rfl⟩

/-! ## Steps on the host's events -/

/-- Settles O10: the event is taken before it is served, and what serves it is a word, a read or a reset, of which only the
read touches the host's two lists. -/
theorem eachEventIsConsumedOnce : Obligations.EachEventIsConsumedOnce := by
  intro s t e rest hin h
  replace h := (stepWith_cons Config.hw exec hin).symm.trans h
  cases e with
  | command w =>
    obtain ⟨hinputs, hreads⟩ := issue_keeps_host (w := w) h
    exact ⟨hinputs, .inl hreads⟩
  | read a => cases h; exact ⟨rfl, .inr ⟨a, rfl, rfl⟩⟩
  | powerOnReset => cases h; exact ⟨rfl, .inl rfl⟩

/-- Settles O12: the word completes without touching the host's lists, so the read is the next event and answers from the
state the word left. -/
theorem readSeesTheStateTheLastCommandLeft : Obligations.ReadSeesTheStateTheLastCommandLeft := by
  intro w a s rest
  obtain ⟨t, ht⟩ := issue_completes w { s with inputs := .read a :: rest }
  obtain ⟨hinputs, hreads⟩ := issue_keeps_host ht
  have hstep : step t = .next ({ t with inputs := rest }.readPort Config.hw a) := stepWith_cons Config.hw exec hinputs
  refine ⟨t, _, ?_, ht, hstep, rfl, rfl, ?_⟩
  · exact (stepWith_cons Config.hw exec (e := .command w) rfl).trans ht
  · rw [readPort_reads, hreads]

/-! ## Repeating a word -/

/-- A command other than CRC.BYTE stores values that do not depend on what it stores, so a second one changes nothing. -/
theorem execIn_idempotent {c : Config} {i : Instr} {s t : State} (hi : ∀ b, i ≠ .crcByte b) (h : execIn c i s = .next t) :
    execIn c i t = .next t := by
  cases commandEffect_of_execIn h with
  | nop | crcInit | crcCheck | flagsClear | sreset => rfl
  | crcByte b => exact absurd rfl (hi b)
  | stDecode _ hc | taLoad _ hc => exact ifParser_present hc _ _
  | taCheck _ _ hc hexp => exact (taCheckIn_cases c _ _ _).trans (if_pos (by simp [hc, hexp]))
  | noExpectedAddress _ _ _ hexp => exact (taCheckIn_cases c _ _ _).trans (if_neg (by simp [hexp]))
  | parserAbsent _ hparser hc => exact execIn_parser_absent hc hparser _

/-- Settles O49: a legal word's command is no CRC.BYTE, since a CRC.BYTE is decoded from its own word only; an illegal word sets
ILL again; and two bytes 0x01 after reset leave two different accumulators. -/
theorem onlyCrcByteIsNotIdempotent : Obligations.OnlyCrcByteIsNotIdempotent := by
  refine ⟨fun _ _ _ => rfl, fun w s t hw h => ?_, 0x01#8, State.reset, _, _, rfl, rfl, by decide⟩
  obtain ⟨i, hdecode, hexec⟩ | ⟨⟨e, hdecode⟩, rfl⟩ := issue_next h
  · have hi : ∀ b, i ≠ .crcByte b := by
      rintro b rfl
      exact hw b (encode_of_decode hdecode).symm
    exact (issueWith_ok hdecode t).trans ((exec_eq_execIn i t).trans (execIn_idempotent hi hexec))
  · exact issueWith_error hdecode _

end Sys2Proof.Machine

/-! The command word (spec/30_encoding.md): decode and encode agree (R70 to R73), the decoder and R72's table of matches and
masks accept the same words, R150's illegal words are exactly those that set ILL alone, and what the assembler (R75) and
SP.WRCHK (R76, R81) make of their operands. -/

namespace Sys2Proof

/-! ## Decode and encode agree -/

theorem decode_encode (i : Instr) : decode (encode i) = .ok i := by
  rw [encode, decode_packWord, if_pos rfl]
  cases i with
  | taLoad a => exact congrArg (fun v => Except.ok (Instr.taLoad v)) (half_of_bytes a)
  | _ => rfl

/-- Settles O1: the decoder reads the four packed fields back, and TA.LOAD's two bytes make its address again. -/
theorem decodeOfEncodeIsTheInstruction : Obligations.DecodeOfEncodeIsTheInstruction := decode_encode

/-- Settles O2: what the opcode map accepts fixes the operation code and both operand bytes, and RSV is 0. -/
theorem encodeOfDecodeIsTheWord : Obligations.EncodeOfDecodeIsTheWord := fun _ _ => encode_of_decode

theorem decode_eq_ok_iff {w : CmdWord} {i : Instr} : decode w = .ok i ↔ encode i = w :=
  ⟨encode_of_decode, fun h => h ▸ decode_encode i⟩

/-- Settles O5: one word of each row is decoded. -/
theorem writtenOutWordsDecode : Obligations.WrittenOutWordsDecode :=
  ⟨rfl, rfl, rfl, rfl, rfl, rfl, rfl, rfl, rfl⟩

/-! ## The fields of a word -/

/-- Two words are equal when their four fields are (R70). -/
theorem word_eq_iff_fields {w w' : CmdWord} :
    w = w' ↔ rsvField w = rsvField w' ∧ opField w = opField w' ∧ d1Field w = d1Field w' ∧ d0Field w = d0Field w' := by
  constructor
  · rintro rfl
    exact ⟨rfl, rfl, rfl, rfl⟩
  · rintro ⟨hrsv, hop, hd1, hd0⟩
    rw [← packWord_fields w, hrsv, hop, hd1, hd0, packWord_fields]

@[simp] theorem rsvField_and (w m : CmdWord) : rsvField (w &&& m) = rsvField w &&& rsvField m := BitVec.extractLsb'_and

@[simp] theorem opField_and (w m : CmdWord) : opField (w &&& m) = opField w &&& opField m := BitVec.extractLsb'_and

@[simp] theorem d1Field_and (w m : CmdWord) : d1Field (w &&& m) = d1Field w &&& d1Field m := BitVec.extractLsb'_and

@[simp] theorem d0Field_and (w m : CmdWord) : d0Field (w &&& m) = d0Field w &&& d0Field m := BitVec.extractLsb'_and

/-- A mask of ones keeps every bit of a four-bit field. -/
@[simp] theorem field_and_ones (x : BitVec 4) : x &&& 0xF#4 = x := BitVec.and_allOnes

/-- A mask of ones keeps every bit of a byte. -/
@[simp] theorem byte_and_ones (x : Byte) : x &&& 0xFF#8 = x := BitVec.and_allOnes

@[simp] theorem imm16Field_highByte (w : CmdWord) : (imm16Field w).extractLsb' 8 8 = d1Field w :=
  BitVec.extractLsb'_append_eq_left

@[simp] theorem imm16Field_lowByte (w : CmdWord) : (imm16Field w).extractLsb' 0 8 = d0Field w :=
  BitVec.extractLsb'_append_eq_right

/-- A word decodes to a command exactly when its fields are that command's (R70 to R72). -/
theorem decode_eq_ok_iff_fields {w : CmdWord} {i : Instr} :
    decode w = .ok i ↔
      rsvField w = 0#4 ∧ opField w = i.op ∧ d1Field w = i.operandBytes.1 ∧ d0Field w = i.operandBytes.2 := by
  rw [decode_eq_ok_iff, eq_comm, word_eq_iff_fields]
  simp [encode]

/-! ## R72's table of matches and masks -/

/-- The bits of D1 and D0 that a command's operand form requires to be 0 (R71). -/
def Instr.zeroBits : Instr → Byte × Byte
  | .nop | .crcInit | .flagsClear | .sreset => (0xFF#8, 0xFF#8)
  | .crcByte _ | .stDecode _ => (0xFF#8, 0x00#8)
  | .crcCheck _ _ | .taLoad _ | .taCheck _ _ => (0x00#8, 0x00#8)

/-- A command's row, put together from its operation code and operand form. -/
def Instr.row (i : Instr) : OpcodeRow where
  mnemonic := i.mnemonic
  value := packWord 0#4 i.op 0#8 0#8
  mask := packWord 0xF#4 0xF#4 i.zeroBits.1 i.zeroBits.2

/-- The commands whose operands a word's D1 and D0 hold, one of each row (R71, R72). -/
def commandsOfOperands (w : CmdWord) : List Instr :=
  [.nop, .crcInit, .crcByte (d0Field w), .crcCheck (d0Field w) (d1Field w), .stDecode (d0Field w), .taLoad (imm16Field w),
    .taCheck (d0Field w) (d1Field w), .flagsClear, .sreset]

/-- R72's table is the table of the commands' rows. -/
theorem opcodeRows_eq_rows (w : CmdWord) : opcodeRows = (commandsOfOperands w).map Instr.row := by
  simp only [commandsOfOperands, List.map, Instr.row, Instr.mnemonic, Instr.op, Instr.zeroBits]
  decide

theorem row_mem_opcodeRows (i : Instr) : i.row ∈ opcodeRows := by
  cases i <;> simp only [Instr.row, Instr.mnemonic, Instr.op, Instr.zeroBits] <;> decide

theorem row_accepts_iff {i : Instr} {w : CmdWord} :
    i.row.accepts w = true ↔
      rsvField w = 0#4 ∧ opField w = i.op ∧ d1Field w &&& i.zeroBits.1 = 0#8 ∧ d0Field w &&& i.zeroBits.2 = 0#8 := by
  rw [OpcodeRow.accepts, beq_iff_eq, word_eq_iff_fields]
  simp [Instr.row]

/-- No operand of a command sets a bit that its form requires to be 0. -/
theorem operandBytes_and_zeroBits (i : Instr) :
    i.operandBytes.1 &&& i.zeroBits.1 = 0#8 ∧ i.operandBytes.2 &&& i.zeroBits.2 = 0#8 := by
  cases i <;> simp [Instr.operandBytes, Instr.zeroBits]

/-- A command that holds a word's operands has the word's operand bytes, once those that must be 0 are 0. -/
theorem operandBytes_of_mem_commandsOfOperands {w : CmdWord} {i : Instr} (hi : i ∈ commandsOfOperands w)
    (hd1 : d1Field w &&& i.zeroBits.1 = 0#8) (hd0 : d0Field w &&& i.zeroBits.2 = 0#8) :
    d1Field w = i.operandBytes.1 ∧ d0Field w = i.operandBytes.2 := by
  simp only [commandsOfOperands, List.mem_cons, List.not_mem_nil, or_false] at hi
  rcases hi with rfl | rfl | rfl | rfl | rfl | rfl | rfl | rfl | rfl <;>
    simp_all [Instr.operandBytes, Instr.zeroBits]

/-- Settles O3: a command's fields fit its row; and a row that accepts a word is the row of a command with the word's operands,
whose fields are then the word's. -/
theorem decodeAcceptsExactlyTheOpcodeRows : Obligations.DecodeAcceptsExactlyTheOpcodeRows := by
  refine fun w => ⟨fun i h => ⟨i.row, row_mem_opcodeRows i, ?_, rfl⟩, fun r hr haccepts => ?_⟩
  · obtain ⟨hrsv, hop, hd1, hd0⟩ := decode_eq_ok_iff_fields.mp h
    obtain ⟨hz1, hz0⟩ := operandBytes_and_zeroBits i
    exact row_accepts_iff.mpr ⟨hrsv, hop, hd1 ▸ hz1, hd0 ▸ hz0⟩
  · rw [opcodeRows_eq_rows w] at hr
    obtain ⟨i, hi, rfl⟩ := List.mem_map.mp hr
    obtain ⟨hrsv, hop, hz1, hz0⟩ := row_accepts_iff.mp haccepts
    exact ⟨i, decode_eq_ok_iff_fields.mpr ⟨hrsv, hop, operandBytes_of_mem_commandsOfOperands hi hz1 hz0⟩, rfl⟩

theorem opcodeRows_mnemonic_injective : ∀ r ∈ opcodeRows, ∀ r' ∈ opcodeRows, r.mnemonic = r'.mnemonic → r = r' := by
  decide

/-- Settles O4: both rows carry the mnemonic of the one command that the word decodes to. -/
theorem opcodeRowsNeverOverlap : Obligations.OpcodeRowsNeverOverlap := by
  intro w r hr r' hr' haccepts haccepts'
  obtain ⟨-, hdecode⟩ := decodeAcceptsExactlyTheOpcodeRows w
  obtain ⟨i, hi, hmnemonic⟩ := hdecode r hr haccepts
  obtain ⟨i', hi', hmnemonic'⟩ := hdecode r' hr' haccepts'
  cases hi.symm.trans hi'
  exact opcodeRows_mnemonic_injective r hr r' hr' (hmnemonic.symm.trans hmnemonic')

/-! ## R150's illegal words -/

/-- The two operand bytes as one 16-bit value (R71). -/
theorem operandBits_eq_zero_iff {w : CmdWord} : w.extractLsb' 0 16 = 0x0000#16 ↔ d1Field w = 0#8 ∧ d0Field w = 0#8 := by
  have himm : w.extractLsb' 0 16 = imm16Field w :=
    (BitVec.extractLsb'_append_extractLsb'_eq_extractLsb' (x := w) (start₁ := 0) (len₁ := 8) (len₂ := 8) rfl).symm
  rw [himm]
  constructor
  · intro h
    rw [← imm16Field_highByte, ← imm16Field_lowByte, h]
    exact ⟨rfl, rfl⟩
  · rintro ⟨hd1, hd0⟩
    rw [imm16Field, hd1, hd0]
    rfl

/-- R150 over the fields of R70. -/
theorem illegalCommand_iff_fields {c : Config} {expValid : Bool} {w : CmdWord} :
    IllegalCommand c expValid w ↔
      rsvField w ≠ 0#4 ∨ (0x8 ≤ (opField w).toNat ∧ (opField w).toNat ≤ 0xE) ∨
      (opField w ∈ [0x0#4, 0x1#4, 0x7#4, 0xF#4] ∧ ¬ (d1Field w = 0#8 ∧ d0Field w = 0#8)) ∨
      (opField w ∈ [0x2#4, 0x4#4] ∧ d1Field w ≠ 0#8) ∨
      (opField w ∈ [0x4#4, 0x5#4, 0x6#4] ∧ c.parserPresent = false) ∨ (opField w = 0x6#4 ∧ expValid = false) := by
  rw [IllegalCommand, ne_eq (w.extractLsb' 0 16), operandBits_eq_zero_iff]
  rfl

theorem formNone_error {i : Instr} {d1 d0 : Byte} {e : IllegalWord} (h : formNone i d1 d0 = .error e) :
    ¬ (d1 = 0#8 ∧ d0 = 0#8) := by
  rintro ⟨rfl, rfl⟩
  cases h

theorem formImm8_error {mk : Byte → Instr} {d1 d0 : Byte} {e : IllegalWord} (h : formImm8 mk d1 d0 = .error e) :
    d1 ≠ 0#8 := by
  rintro rfl
  cases h

/-- What the opcode map rejects falls under R150's conditions 2 to 4. -/
theorem decodeOp_error {op : BitVec 4} {d1 d0 : Byte} {e : IllegalWord} (h : decodeOp op d1 d0 = .error e) :
    (0x8 ≤ op.toNat ∧ op.toNat ≤ 0xE) ∨ (op ∈ [0x0#4, 0x1#4, 0x7#4, 0xF#4] ∧ ¬ (d1 = 0#8 ∧ d0 = 0#8)) ∨
      (op ∈ [0x2#4, 0x4#4] ∧ d1 ≠ 0#8) := by
  unfold decodeOp at h
  split at h
  case h_1 hn | h_2 hn | h_8 hn | h_9 hn =>
    exact .inr (.inl ⟨by simp [BitVec.toNat_eq, hn], formNone_error h⟩)
  case h_3 hn | h_5 hn =>
    exact .inr (.inr ⟨by simp [BitVec.toNat_eq, hn], formImm8_error h⟩)
  case h_4 | h_6 | h_7 => cases h
  case h_10 =>
    simp only [imp_false] at *
    exact .inl (by omega)

/-- A word that is no command is illegal in every block (R73, R150). -/
theorem illegalCommand_of_decode_error {w : CmdWord} {e : IllegalWord} (h : decode w = .error e) (c : Config)
    (expValid : Bool) : IllegalCommand c expValid w := by
  rw [illegalCommand_iff_fields]
  unfold decode at h
  split at h
  next =>
    obtain hop | hnone | himm8 := decodeOp_error h
    · exact .inr (.inl hop)
    · exact .inr (.inr (.inl hnone))
    · exact .inr (.inr (.inr (.inl himm8)))
  next hrsv => exact .inl hrsv

/-- A command's own word is illegal only by R150's conditions 5 and 6. -/
theorem illegalCommand_encode_iff {c : Config} {expValid : Bool} {i : Instr} :
    IllegalCommand c expValid (encode i) ↔
      (i.isParser = true ∧ c.parserPresent = false) ∨ (i.op = 0x6#4 ∧ expValid = false) := by
  rw [illegalCommand_iff_fields]
  simp only [encode, rsvField_packWord, opField_packWord, d1Field_packWord, d0Field_packWord]
  cases i <;> simp [Instr.op, Instr.operandBytes, Instr.isParser]

/-- Only TA.CHECK has the operation code 6 (R72). -/
theorem eq_taCheck_of_op {i : Instr} (h : i.op = 0x6#4) : ∃ ta1 ta2, i = .taCheck ta1 ta2 := by
  cases i with
  | taCheck ta1 ta2 => exact ⟨ta1, ta2, rfl⟩
  | _ => cases h

end Sys2Proof

namespace Sys2Proof.Machine

/-- A command that conditions 5 and 6 make illegal sets ILL and nothing else (R151). -/
theorem execIn_illegal {c : Config} {i : Instr} {s : State} (h : IllegalCommand c s.expValid (encode i)) :
    execIn c i s = .next { s with ill := true } := by
  rw [illegalCommand_encode_iff] at h
  obtain ⟨hparser, hc⟩ | ⟨hop, hexp⟩ := h
  · exact execIn_parser_absent hc hparser s
  · obtain ⟨ta1, ta2, rfl⟩ := eq_taCheck_of_op hop
    exact (taCheckIn_cases c ta1 ta2 s).trans (if_neg (by simp [hexp]))

/-- A legal command leaves ILL as it is, and SRESET clears it (R151, R153). -/
theorem execIn_legal_ill {c : Config} {i : Instr} {s t : State} (hlegal : ¬ IllegalCommand c s.expValid (encode i))
    (h : execIn c i s = .next t) : t.ill = if i = .sreset then false else s.ill := by
  rw [illegalCommand_encode_iff, not_or] at hlegal
  obtain ⟨hparser, hexp⟩ := hlegal
  cases commandEffect_of_execIn h with
  | parserAbsent _ hi hc => exact absurd ⟨hi, hc⟩ hparser
  | noExpectedAddress _ _ _ he => exact absurd ⟨rfl, he⟩ hexp
  | _ => rfl

/-- Settles O6: a word either does not decode, which is illegal and sets ILL, or is its command's own word, for which R150's
conditions 5 and 6 alone are left. -/
theorem illegalCommandsSetOnlyIll : Obligations.IllegalCommandsSetOnlyIll := by
  intro c w s
  cases hw : decode w with
  | error e => exact ⟨fun _ => issueWith_error hw s, fun h => absurd (illegalCommand_of_decode_error hw c _) h⟩
  | ok i =>
    have hissue : issueIn c w s = execIn c i s := issueWith_ok hw s
    have hword : encode i = w := encode_of_decode hw
    subst hword
    refine ⟨fun h => hissue.trans (execIn_illegal h), fun h => ?_⟩
    obtain ⟨t, ht⟩ := execIn_completes c i s
    exact ⟨i, t, rfl, hissue, ht, execIn_legal_ill h ht⟩

/-! ## The step on a presented word -/

theorem step_command (w : CmdWord) (s : State) (rest : List HostEvent) :
    step { s with inputs := .command w :: rest } = issue w { s with inputs := rest } :=
  stepWith_cons Config.hw exec (s := { s with inputs := .command w :: rest }) rfl

/-- Settles O7: the step presents the word to the decoder, which gives the command. -/
theorem stepRunsTheDecodedCommand : Obligations.StepRunsTheDecodedCommand :=
  fun w _ s rest h => (step_command w s rest).trans (issueWith_ok h _)

/-- Settles O8: the step presents the word to the decoder, which rejects it. -/
theorem stepFlagsAnUndecodableWord : Obligations.StepFlagsAnUndecodableWord :=
  fun w _ s rest h => (step_command w s rest).trans (issueWith_error h _)

/-! ## The commands of a checked span -/

/-- Bytes fed after an accumulator was set leave their CRC in it (R104, R106). -/
theorem runCommands_crcBytes (bytes : List Byte) (is : List Instr) (s : State) (v : Half) :
    runCommands (bytes.map .crcByte ++ is) (s.setAcc v) = runCommands is (s.setAcc (crcFeed Config.hw v bytes)) := by
  induction bytes generalizing v with
  | nil => rfl
  | cons b bytes ih =>
    have hfeed : exec (.crcByte b) (s.setAcc v) = .next (s.setAcc (crcUpdate Config.hw v b)) := rfl
    exact (runCommands_cons (decode_encode _) hfeed _).trans (ih _)

/-- The commands of CRC.SPAN leave the span's CRC in ACC, whatever was there (R76, R106). -/
theorem runCommands_spanCommands (bytes : List Byte) (is : List Instr) (s : State) :
    runCommands (spanCommands bytes ++ is) s = runCommands is (s.setAcc (crcSpan Config.hw bytes)) := by
  have hinit : exec .crcInit s = .next (s.setAcc Config.hw.crcInit) := rfl
  exact (runCommands_cons (decode_encode _) hinit _).trans (runCommands_crcBytes bytes is s _)

/-- The commands of CRC.VERIFY go on to compare the span's CRC with the received one (R76, R105). -/
theorem runCommands_verifyCommands (bytes : List Byte) (c0 c1 : Byte) (is : List Instr) (s : State) :
    runCommands (verifyCommands bytes c0 c1 ++ is) s =
      runCommands is { s with
        acc := crcSpan Config.hw bytes, rxCrc := wireValue Config.hw c0 c1,
        crcOk := crcMatches Config.hw (crcSpan Config.hw bytes) (wireValue Config.hw c0 c1), crcValid := true } := by
  rw [verifyCommands, List.append_assoc, runCommands_spanCommands]
  exact runCommands_cons (decode_encode (.crcCheck c0 c1)) rfl is

/-- Settles O36: SP.WRCHK checks `span_WR`, whose bytes are the command byte, the address low byte first, and the payload. -/
theorem writeCheckCoversTheWholeFrame : Obligations.WriteCheckCoversTheWholeFrame := by
  intro a payload c0 c1 s
  have h := runCommands_verifyCommands (spanWrite a payload) c0 c1 [] s
  rwa [List.append_nil] at h

/-! ## The assembler's operands -/

theorem byteOperand_eq (n : Nat) : byteOperand n = if n < 256 then some (BitVec.ofNat 8 n) else none := by
  simp only [byteOperand, Nat.lt_succ_iff]

theorem halfOperand_eq (n : Nat) : halfOperand n = if n < 65536 then some (BitVec.ofNat 16 n) else none := by
  simp only [halfOperand, Nat.lt_succ_iff]

/-- A one-byte command is assembled from a byte and from no other number (R75). -/
theorem oneByte_eq (mk : Byte → Instr) (n : Nat) :
    oneByte mk n = if n < 256 then some [mk (BitVec.ofNat 8 n)] else none := by
  rw [oneByte, byteOperand_eq]
  split <;> rfl

/-- A two-byte command is assembled from two bytes; one number out of range rejects it (R75). -/
theorem twoBytes_eq (mk : Byte → Byte → Instr) (n m : Nat) :
    twoBytes mk n m = if n < 256 ∧ m < 256 then some [mk (BitVec.ofNat 8 n) (BitVec.ofNat 8 m)] else none := by
  rw [twoBytes, byteOperand_eq, byteOperand_eq, ite_and]
  by_cases hn : n < 256 <;> by_cases hm : m < 256 <;> simp [hn, hm]

/-- TA.LOAD is assembled from a 16-bit number and from no other (R75). -/
theorem taLoadCommand_eq (n : Nat) :
    (halfOperand n).map (fun a => [Instr.taLoad a]) = if n < 65536 then some [.taLoad (BitVec.ofNat 16 n)] else none := by
  rw [halfOperand_eq]
  split <;> rfl

/-- Settles O51: the mnemonic's look-up computes, and what it finds reads the operands by `byteOperand` or `halfOperand`. -/
theorem assemblerRejectsOutOfRangeOperands : Obligations.AssemblerRejectsOutOfRangeOperands :=
  fun _ n m => ⟨oneByte_eq _ n, oneByte_eq _ n, taLoadCommand_eq n, twoBytes_eq _ n m, twoBytes_eq _ n m⟩

end Sys2Proof.Machine

/-! The CRC function (spec/40_crc_engine.md): R100's loop is linear over GF(2), from which R108's table form and residue follow, and
loses no bit, from which R105's one-bit case follows; and the CRC engine's commands (R103 to R107). -/

namespace Sys2Proof.Machine

/-! ## The value of two wire bytes (R102) -/

theorem wireValue_wireBytes (c : Config) (v : Half) : wireValue c (wireBytes c v).1 (wireBytes c v).2 = v := by
  unfold wireValue wireBytes
  split <;> exact half_of_bytes v

/-- Settles O17: in either wire order the high byte is put back above the low byte. -/
theorem wireBytesRoundTrip : Obligations.WireBytesRoundTrip :=
  fun c => ⟨fun _ _ => rfl, fun _ => rfl, wireValue_wireBytes c⟩

/-! ## The loop of `crc_update` as R100 writes it -/

/-- A loop that ignores its counter is as many turns as the counter has values. -/
theorem foldl_eq_turns {α : Type} (body : Half → Half) (l : List α) (v : Half) :
    l.foldl (fun v _ => body v) v = turns body l.length v := by
  induction l generalizing v with
  | nil => rfl
  | cons _ l ih => exact ih (body v)

/-- Settles O18: each branch is eight turns of its loop body. -/
theorem crcUpdateFollowsItsLoop : Obligations.CrcUpdateFollowsItsLoop := by
  refine ⟨by decide, fun c acc b => ?_⟩
  cases h : c.crcReflected with
  | true => exact (crcUpdate_reflected h acc b).trans (foldl_eq_turns (crcShiftRight c) (List.range 8) _).symm
  | false => exact (crcUpdate_normal h acc b).trans (foldl_eq_turns (crcShiftLeft c) (List.range 8) _).symm

/-! ## Linearity over GF(2) (R108) -/

/-- A turn of the reflected branch bit by bit: the next bit up, and the polynomial's where bit 0 was 1 (R100). -/
theorem crcShiftRight_getLsbD (c : Config) (v : Half) (k : Nat) :
    (crcShiftRight c v).getLsbD k = (v.getLsbD (1 + k) ^^ (v.getLsbD 0 && (reflect16 c.crcPoly).getLsbD k)) := by
  unfold crcShiftRight
  cases v.getLsbD 0 <;> simp

theorem crcShiftRight_xor (c : Config) (v w : Half) :
    crcShiftRight c (v ^^^ w) = crcShiftRight c v ^^^ crcShiftRight c w := by
  apply BitVec.eq_of_getLsbD_eq
  intro k _
  simp only [crcShiftRight_getLsbD, BitVec.getLsbD_xor, Bool.and_xor_distrib_right, Bool.xor_assoc, Bool.xor_left_comm]

/-- The normal branch's turn is the reflected branch's in the mirror. -/
theorem crcShiftLeft_xor (c : Config) (v w : Half) :
    crcShiftLeft c (v ^^^ w) = crcShiftLeft c v ^^^ crcShiftLeft c w := by
  have hmirror : (crcShiftLeft c (v ^^^ w)).reverse = (crcShiftLeft c v ^^^ crcShiftLeft c w).reverse := by
    simp only [reverse_crcShiftLeft, reverse_xor, crcShiftRight_xor]
  simpa only [BitVec.reverse_reverse_eq] using congrArg BitVec.reverse hmirror

theorem turns_xor {body : Half → Half} (h : ∀ v w, body (v ^^^ w) = body v ^^^ body w) (n : Nat) (v w : Half) :
    turns body n (v ^^^ w) = turns body n v ^^^ turns body n w := by
  induction n generalizing v w with
  | zero => rfl
  | succ n ih => simp only [turns_succ, h, ih]

/-- The byte's entry and every turn of the loop are linear. -/
theorem crcUpdate_xor (c : Config) (a1 a2 : Half) (b1 b2 : Byte) :
    crcUpdate c (a1 ^^^ a2) (b1 ^^^ b2) = crcUpdate c a1 b1 ^^^ crcUpdate c a2 b2 := by
  have hentry (x1 x2 : Half) : (a1 ^^^ a2) ^^^ (x1 ^^^ x2) = (a1 ^^^ x1) ^^^ (a2 ^^^ x2) := by ac_rfl
  cases h : c.crcReflected with
  | true => simp only [crcUpdate_reflected h, BitVec.setWidth_xor, hentry, turns_xor (crcShiftRight_xor c)]
  | false =>
    simp only [crcUpdate_normal h, BitVec.setWidth_xor, BitVec.shiftLeft_xor_distrib, hentry, turns_xor (crcShiftLeft_xor c)]

/-- Settles O19, which `crcUpdate_xor` states. -/
theorem crcUpdateIsLinear : Obligations.CrcUpdateIsLinear := crcUpdate_xor

/-! ## The table form (R108) -/

theorem crcShiftRight_of_bit_zero (c : Config) {v : Half} (h : v.getLsbD 0 = false) : crcShiftRight c v = v >>> 1 := by
  simp only [crcShiftRight, h, Bool.false_eq_true, if_false]

/-- The reflected branch only shifts while the bits that leave are 0. -/
theorem turns_crcShiftRight_of_low_zero (c : Config) {n : Nat} {v : Half} (h : ∀ k < n, v.getLsbD k = false) :
    turns (crcShiftRight c) n v = v >>> n := by
  induction n generalizing v with
  | zero => simp
  | succ n ih =>
    have hrest : ∀ k < n, (v >>> 1).getLsbD k = false := fun k hk => by
      rw [BitVec.getLsbD_ushiftRight]
      exact h (1 + k) (by omega)
    rw [turns_succ, crcShiftRight_of_bit_zero c (h 0 n.succ_pos), ih hrest, ← BitVec.shiftRight_add, Nat.add_comm]

/-- A byte enters the low half of the accumulator only (R100). -/
theorem byte_ushiftRight (b : Byte) : (b.setWidth 16 : Half) >>> 8 = 0#16 := by
  ext k hk
  simp

/-- Once the low byte is taken out, eight turns are one shift. -/
theorem turns_crcShiftRight_xor_lowByte (c : Config) (v : Half) :
    turns (crcShiftRight c) 8 (v ^^^ (lowByte v).setWidth 16) = v >>> 8 := by
  have hlow : ∀ k < 8, (v ^^^ (lowByte v).setWidth 16).getLsbD k = false := fun k hk => by
    simp [lowByte, hk, Nat.lt_trans hk]
  rw [turns_crcShiftRight_of_low_zero c hlow, BitVec.ushiftRight_xor_distrib, byte_ushiftRight, BitVec.xor_zero]

/-- Eight turns shift the high byte down, and add what the low byte alone becomes. -/
theorem eight_turns_crcShiftRight (c : Config) (v : Half) :
    turns (crcShiftRight c) 8 v = turns (crcShiftRight c) 8 ((lowByte v).setWidth 16) ^^^ (v >>> 8) := by
  rw [← turns_crcShiftRight_xor_lowByte c v, ← turns_xor (crcShiftRight_xor c), BitVec.xor_comm, BitVec.xor_assoc,
    BitVec.xor_self, BitVec.xor_zero]

/-- Settles O20: the low byte of `acc ^ b` is looked up, and the rest is the high byte of `acc`. -/
theorem crcUpdateByTable : Obligations.CrcUpdateByTable := by
  intro c acc b h
  rw [crcUpdate_reflected h, crcUpdate_reflected h, eight_turns_crcShiftRight, BitVec.ushiftRight_xor_distrib,
    byte_ushiftRight, BitVec.xor_zero, BitVec.zero_xor, lowByte]

/-! ## The residue (R108) -/

/-- Feeding an accumulator its own low byte leaves its high byte. -/
theorem crcUpdate_lowByte {c : Config} (h : c.crcReflected = true) (acc : Half) : crcUpdate c acc (lowByte acc) = acc >>> 8 :=
  (crcUpdate_reflected h acc _).trans (turns_crcShiftRight_xor_lowByte c acc)

/-- Feeding an accumulator its own two bytes, low byte first, leaves 0. -/
theorem crcFeed_own_bytes {c : Config} (h : c.crcReflected = true) (acc : Half) :
    crcFeed c acc [lowByte acc, highByte acc] = 0#16 := by
  have hhigh : highByte acc = lowByte (acc >>> 8) := by
    ext k hk
    simp [highByte, lowByte]
  have hzero : acc >>> 8 >>> 8 = 0#16 := by
    rw [← BitVec.shiftRight_add]
    exact BitVec.ushiftRight_eq_zero (by decide)
  rw [crcFeed_cons, crcFeed_cons, crcFeed_nil, crcUpdate_lowByte h, hhigh, crcUpdate_lowByte h, hzero]

/-- What is left after a CRC value's own wire bytes depends on CRC_XOROUT alone, not on the accumulator. -/
theorem crcFeed_wireBytes_crcOut {c : Config} (h : c.crcReflected = true) (hw : c.crcWireLsbFirst = true) (acc : Half) :
    crcFeed c acc [(wireBytes c (crcOut c acc)).1, (wireBytes c (crcOut c acc)).2] =
      crcFeed c 0#16 [lowByte c.crcXorOut, highByte c.crcXorOut] := by
  calc crcFeed c acc [(wireBytes c (crcOut c acc)).1, (wireBytes c (crcOut c acc)).2]
      = crcFeed c (acc ^^^ 0#16) [lowByte acc ^^^ lowByte c.crcXorOut, highByte acc ^^^ highByte c.crcXorOut] := by
        rw [wireBytes_lsbFirst hw, BitVec.xor_zero]
        simp only [crcOut, lowByte, highByte, BitVec.extractLsb'_xor]
    _ = crcFeed c acc [lowByte acc, highByte acc] ^^^ crcFeed c 0#16 [lowByte c.crcXorOut, highByte c.crcXorOut] := by
        simp only [crcFeed_cons, crcFeed_nil, crcUpdate_xor]
    _ = crcFeed c 0#16 [lowByte c.crcXorOut, highByte c.crcXorOut] := by
        rw [crcFeed_own_bytes h, BitVec.zero_xor]

/-- The residue of this hardware's CRC_XOROUT. -/
theorem crcFeed_hw_xorOut : crcFeed Config.hw 0#16 [0xFF#8, 0xFF#8] = 0xB001#16 := by
  have hfirst : crcUpdate Config.hw 0#16 0xFF#8 = 0x4040#16 := by decide
  have hsecond : crcUpdate Config.hw 0x4040#16 0xFF#8 = 0xB001#16 := by decide
  rw [crcFeed_cons, hfirst, crcFeed_cons, hsecond, crcFeed_nil]

/-- Settles O22: the span's own CRC bytes take its CRC out of ACC, and leave what CRC_XOROUT becomes. -/
theorem residueOfASpanAndItsCrc : Obligations.ResidueOfASpanAndItsCrc := by
  intro span
  rw [crcSpan, crcFeed_append]
  exact (crcFeed_wireBytes_crcOut rfl rfl _).trans crcFeed_hw_xorOut

/-! ## No bit is lost (R105) -/

/-- Where the polynomial has the term 1, bit 15 after a turn tells what bit was shifted out. -/
theorem crcShiftRight_getLsbD_last {c : Config} (hpoly : c.crcPoly.getLsbD 0 = true) (v : Half) :
    (crcShiftRight c v).getLsbD 15 = v.getLsbD 0 := by
  rw [crcShiftRight_getLsbD, reflect16_getLsbD _ _ (by decide), hpoly]
  simp

theorem crcShiftRight_injective {c : Config} (hpoly : c.crcPoly.getLsbD 0 = true) : Function.Injective (crcShiftRight c) := by
  intro v w heq
  have hout : v.getLsbD 0 = w.getLsbD 0 := by
    rw [← crcShiftRight_getLsbD_last hpoly, heq, crcShiftRight_getLsbD_last hpoly]
  apply BitVec.eq_of_getLsbD_eq
  intro k _
  cases k with
  | zero => exact hout
  | succ k =>
    have hbit := congrArg (BitVec.getLsbD · k) heq
    simp only [crcShiftRight_getLsbD, hout, Bool.xor_left_inj] at hbit
    rwa [Nat.add_comm]

theorem turns_injective {body : Half → Half} (h : Function.Injective body) (n : Nat) : Function.Injective (turns body n) := by
  induction n with
  | zero => exact Function.injective_id
  | succ n ih => exact ih.comp h

section Injective
variable {c : Config} (hreflected : c.crcReflected = true) (hpoly : c.crcPoly.getLsbD 0 = true)
include hreflected hpoly

theorem crcUpdate_eq_iff {a a' : Half} {b b' : Byte} :
    crcUpdate c a b = crcUpdate c a' b' ↔ a ^^^ b.setWidth 16 = a' ^^^ b'.setWidth 16 := by
  rw [crcUpdate_reflected hreflected, crcUpdate_reflected hreflected]
  exact (turns_injective (crcShiftRight_injective hpoly) 8).eq_iff

theorem crcFeed_injective (span : List Byte) : Function.Injective (crcFeed c · span) := by
  induction span with
  | nil => exact Function.injective_id
  | cons b span ih =>
    intro a a' heq
    exact (BitVec.xor_left_inj _).mp ((crcUpdate_eq_iff hreflected hpoly).mp (ih heq))

/-- Two spans with the same CRC that differ in one byte at most are the same span. -/
theorem crcSpan_byte_injective (before after : List Byte) :
    Function.Injective fun b => crcSpan c (before ++ [b] ++ after) := by
  intro b b' heq
  simp only [crcSpan, crcFeed_append, crcFeed_cons, crcFeed_nil] at heq
  have hentry := (crcUpdate_eq_iff hreflected hpoly).mp (crcFeed_injective hreflected hpoly after heq)
  exact byte_of_zeroExtended ((BitVec.xor_right_inj _).mp hentry)

end Injective

/-- A flipped bit makes another byte. -/
theorem xor_bit_ne (b : Byte) {k : Nat} (hk : k < 8) : b ^^^ (1#8 <<< k) ≠ b := by
  intro h
  have hbit := congrArg (BitVec.getLsbD · k) h
  simp [hk] at hbit

/-- CRC.CHECK against the CRC bytes of a span passes exactly when ACC holds that span's CRC (R105, R107). -/
theorem crcMatches_appendedCrc (c : Config) (acc : Half) (span : List Byte) :
    crcMatches c acc (wireValue c (appendedCrc c span).1 (appendedCrc c span).2) = decide (acc = crcSpan c span) := by
  rw [appendedCrc, wireValue_wireBytes, crcMatches, crcOut, crcOut, beq_eq_decide]
  simp only [BitVec.xor_left_inj]

/-- Settles O23: ACC holds the CRC of another span, since a changed byte changes the CRC. -/
theorem oneBitChangeInASpanIsDetected : Obligations.OneBitChangeInASpanIsDetected := by
  intro before after b k s t hk hacc h
  have hne : s.acc ≠ crcSpan Config.hw (before ++ [b] ++ after) := fun heq =>
    xor_bit_ne b hk (crcSpan_byte_injective rfl rfl before after (hacc.symm.trans heq))
  cases h
  exact ⟨(crcMatches_appendedCrc _ _ _).trans (decide_eq_false hne), rfl⟩

/-! ## The CRC engine's commands (R103 to R105) -/

/-- A word written as its operation byte and its two operand bytes, RSV being 0 (R70). -/
theorem decode_operationByte (op : BitVec 4) (d1 d0 : Byte) : decode ((0#4 ++ op : Byte) ++ d1 ++ d0) = decodeOp op d1 d0 :=
  decode_packWord 0#4 op d1 d0

theorem formNone_of_ne {i : Instr} {d1 d0 : Byte} (h : d1 ≠ 0#8 ∨ d0 ≠ 0#8) :
    formNone i d1 d0 = .error (.operandsNotZero d1 d0) :=
  if_neg (not_and_or.mpr h)

theorem formImm8_of_ne {mk : Byte → Instr} {d1 d0 : Byte} (h : d1 ≠ 0#8) : formImm8 mk d1 d0 = .error (.d1NotZero d1) :=
  if_neg h

/-- Settles O24: the word is decoded, and nonzero operand bytes do not fit the form without operands. -/
theorem crcInitStartsASpan : Obligations.CrcInitStartsASpan := by
  refine ⟨fun _ => rfl, fun _ => issueWith_ok rfl _, fun d1 d0 s h => ?_⟩
  exact issueWith_error ((decode_operationByte 0x1#4 d1 d0).trans (formNone_of_ne h)) s

/-- Settles O25: the word is decoded, and a nonzero D1 does not fit the one-byte form. -/
theorem crcByteFeedsOneByte : Obligations.CrcByteFeedsOneByte := by
  refine ⟨fun _ _ => rfl, fun b s => ?_, fun d1 d0 s h => ?_⟩
  · exact issueWith_ok (decode_operationByte 0x2#4 0x00#8 b) s
  · exact issueWith_error ((decode_operationByte 0x2#4 d1 d0).trans (formImm8_of_ne h)) s

/-- Settles O26: the form of two wire bytes accepts every operand. -/
theorem crcCheckComparesWithTheReceivedCrc : Obligations.CrcCheckComparesWithTheReceivedCrc :=
  ⟨fun _ _ _ => rfl, fun c0 c1 s => issueWith_ok (decode_operationByte 0x3#4 c1 c0) s⟩

/-! ## CRC.SPAN and CRC.VERIFY (R106, R107) -/

theorem runCommands_crcSpan (span : List Byte) (s : State) :
    runCommands (Pseudo.crcSpan span).expand s = .next (s.setAcc (crcSpan Config.hw span)) := by
  have h := runCommands_spanCommands span [] s
  rwa [List.append_nil] at h

theorem runCommands_crcVerify (span : List Byte) (c0 c1 : Byte) (s : State) :
    runCommands (Pseudo.crcVerify span c0 c1).expand s = .next { s with
      acc := crcSpan Config.hw span, rxCrc := wireValue Config.hw c0 c1,
      crcOk := crcMatches Config.hw (crcSpan Config.hw span) (wireValue Config.hw c0 c1), crcValid := true } := by
  have h := runCommands_verifyCommands span c0 c1 [] s
  rwa [List.append_nil] at h

/-- Settles O27: the fold from CRC_INIT, and the runs of the two expansions. -/
theorem spanCommandsComputeTheSpansCrc : Obligations.SpanCommandsComputeTheSpansCrc :=
  ⟨rfl, fun span b => crcFeed_append _ _ span [b], runCommands_crcSpan, runCommands_crcVerify⟩

/-- Settles O28: CRC.VERIFY's verdict against the span's own CRC bytes. -/
theorem appendedCrcAlwaysVerifies : Obligations.AppendedCrcAlwaysVerifies := by
  intro span s
  exact ⟨_, runCommands_crcVerify span _ _ s, (crcMatches_appendedCrc _ _ _).trans (decide_eq_true rfl), rfl⟩

end Sys2Proof.Machine

/-! The scratchpad-frame parser (spec/41_frame_parser.md): the pass mask (R121), ST.DECODE, TA.LOAD and TA.CHECK with their words
and illegal forms (R120, R122, R123), and what SP.RDCHK leaves (R124). -/

namespace Sys2Proof.Machine

/-! ## The three verdicts, in the spec's own terms -/

/-- Masking with ST_MASK keeps the remainder by 8, which is es[2:0] (R121). -/
theorem stPassCheck_eq (es : Byte) : stPassCheck es = (es.extractLsb' 0 3 == 0b111#3) := by
  have hmask : es.toNat &&& 7 = es.toNat % 8 := Nat.and_two_pow_sub_one_eq_mod es.toNat 3
  rw [stPassCheck, beq_eq_decide, beq_eq_decide, decide_eq_decide]
  simp [BitVec.toNat_eq, stMask, stPassValue, hmask]

/-- Settles O30, which `stPassCheck_eq` states as an equation. -/
theorem passCheckReadsOnlyTheLowThreeBits : Obligations.PassCheckReadsOnlyTheLowThreeBits := by
  intro es
  rw [stPassCheck_eq, beq_iff_eq]

theorem crcMatches_iff {c : Config} {acc rx : Half} : crcMatches c acc rx = true ↔ crcOut c acc = rx := beq_iff_eq

theorem echoMatches_iff {echo expected : Half} : echoMatches echo expected = true ↔ echo = expected := beq_iff_eq

/-! ## The parser's commands (R120, R122, R123) -/

/-- Settles O31: the pass mask in the spec's terms; the word is decoded, and a nonzero D1 does not fit the one-byte form. -/
theorem stDecodeDecodesTheStatusByte : Obligations.StDecodeDecodesTheStatusByte := by
  refine ⟨fun es s => ?_, fun es s => ?_, fun d1 d0 s h => ?_, fun c es s hc => ?_⟩
  · rw [← stPassCheck_eq]
    rfl
  · exact issueWith_ok (decode_operationByte 0x4#4 0x00#8 es) s
  · exact issueWith_error ((decode_operationByte 0x4#4 d1 d0).trans (formImm8_of_ne h)) s
  · exact execIn_parser_absent hc rfl s

/-- Settles O32: the address form accepts every operand. -/
theorem taLoadLoadsTheExpectedAddress : Obligations.TaLoadLoadsTheExpectedAddress :=
  ⟨fun _ _ => rfl, fun d1 d0 s => issueWith_ok (decode_operationByte 0x5#4 d1 d0) s,
    fun _ _ s hc => execIn_parser_absent hc rfl s⟩

/-- TA.CHECK on this hardware, where the parser is (R123). -/
theorem exec_taCheck (ta1 ta2 : Byte) (s : State) :
    exec (.taCheck ta1 ta2) s =
      if s.expValid then .next (s.checkEcho (echoAddress ta1 ta2)) else .next { s with ill := true } :=
  taCheckIn_cases Config.hw ta1 ta2 s

/-- Settles O33: an expected address is held, so TA.CHECK compares. -/
theorem taCheckComparesTheEcho : Obligations.TaCheckComparesTheEcho :=
  fun ta1 ta2 s hexp => (exec_taCheck ta1 ta2 s).trans (if_pos hexp)

/-- Settles O34: the form of two wire bytes accepts every operand; without an expected address TA.CHECK only sets ILL. -/
theorem taCheckIsIllegalWithoutAnExpectedAddress : Obligations.TaCheckIsIllegalWithoutAnExpectedAddress := by
  refine ⟨fun ta1 ta2 s => ?_, fun ta1 ta2 s hexp => ?_, fun c ta1 ta2 s hc => ?_⟩
  · exact issueWith_ok (decode_operationByte 0x6#4 ta2 ta1) s
  · exact (exec_taCheck ta1 ta2 s).trans (if_neg (by simp [hexp]))
  · exact execIn_parser_absent hc rfl s

/-! ## SP.RDCHK (R124) -/

/-- SP.RDCHK's commands one after another: TA.LOAD, the span of R82 and its CRC.CHECK, ST.DECODE, and TA.CHECK, which finds the
address that TA.LOAD loaded (R76). -/
theorem runCommands_spRdchk (a : Half) (ta1 ta2 es : Byte) (payload : List Byte) (c0 c1 : Byte) (s : State) :
    runCommands (Pseudo.spRdchk a ta1 ta2 es payload c0 c1).expand s = .next { s with
      acc := crcSpan Config.hw (spanRead ta1 ta2 es payload), rxCrc := wireValue Config.hw c0 c1,
      crcOk := crcMatches Config.hw (crcSpan Config.hw (spanRead ta1 ta2 es payload)) (wireValue Config.hw c0 c1),
      crcValid := true, es := es, stPass := stPassCheck es, stValid := true, expAddr := a, expValid := true,
      taEcho := echoAddress ta1 ta2, addrOk := echoMatches (echoAddress ta1 ta2) a, addrValid := true } := by
  rw [Pseudo.expand, List.cons_append, runCommands_cons (decode_encode (.taLoad a)) rfl, runCommands_verifyCommands,
    runCommands_cons (decode_encode (.stDecode es)) rfl,
    runCommands_cons (decode_encode (.taCheck ta1 ta2)) ((exec_taCheck ta1 ta2 _).trans (if_pos rfl))]
  rfl

/-- With the three verdicts valid, the reading that accepts the response is the verdicts themselves and ILL (R124, R173, R177). -/
theorem acceptedResponse_iff_of_valid {b : Block} (hcrc : b.crcValid = true) (hst : b.stValid = true)
    (haddr : b.addrValid = true) :
    b.AcceptedResponse ↔ b.ill = false ∧ b.crcOk = true ∧ b.stPass = true ∧ b.addrOk = true := by
  simp [Block.AcceptedResponse, Block.crcVerdict, Block.statusVerdict, Block.echoVerdict, hcrc, hst, haddr]

/-- Settles O35: the run's last state, each of its verdicts in the spec's terms. -/
theorem readCheckLeavesTheThreeVerdicts : Obligations.ReadCheckLeavesTheThreeVerdicts := by
  intro a ta1 ta2 es payload c0 c1 s
  refine ⟨_, runCommands_spRdchk a ta1 ta2 es payload c0 c1 s, ?_, ?_, ?_, rfl, rfl, rfl, rfl, rfl, ?_⟩
  · exact crcMatches_iff
  · exact passCheckReadsOnlyTheLowThreeBits es
  · exact echoMatches_iff
  · exact acceptedResponse_iff_of_valid rfl rfl rfl

end Sys2Proof.Machine

/-! The control commands (spec/42_control.md): NOP, FLAGS.CLEAR and SRESET, each with its effect, its one word and its illegal forms
(R140 to R142); and R142's corner case, that no other command clears ILL. -/

namespace Sys2Proof.Machine

/-! ## The illegal forms of a command without operands -/

/-- An operation code that takes no operands, presented with a nonzero operand byte, is an illegal command (R150 condition 3). -/
theorem issue_formNone_of_ne {op : BitVec 4} {i : Instr} (hop : ∀ d1 d0, decodeOp op d1 d0 = formNone i d1 d0)
    {d1 d0 : Byte} (h : d1 ≠ 0#8 ∨ d0 ≠ 0#8) (s : State) :
    issue ((0#4 ++ op : Byte) ++ d1 ++ d0) s = .next { s with ill := true } := by
  have hdecode : decode ((0#4 ++ op : Byte) ++ d1 ++ d0) = .error (.operandsNotZero d1 d0) :=
    (decode_operationByte op d1 d0).trans ((hop d1 d0).trans (formNone_of_ne h))
  exact issueWith_error hdecode s

/-! ## NOP and FLAGS.CLEAR (R140, R141) -/

/-- Settles O39: the all-zero word decodes to NOP, and nonzero operand bytes do not fit the form without operands. -/
theorem nopChangesNothing : Obligations.NopChangesNothing :=
  ⟨fun _ => rfl, fun s => issueWith_ok (decode_encode .nop) s,
    fun _ _ s h => issue_formNone_of_ne (op := 0x0#4) (fun _ _ => rfl) h s⟩

/-- Settles O40: the word decodes to FLAGS.CLEAR, and nonzero operand bytes do not fit the form without operands. -/
theorem flagsClearClearsTheVerdicts : Obligations.FlagsClearClearsTheVerdicts :=
  ⟨fun _ => rfl, fun s => issueWith_ok (decode_encode .flagsClear) s,
    fun _ _ s h => issue_formNone_of_ne (op := 0x7#4) (fun _ _ => rfl) h s⟩

/-! ## SRESET (R142) -/

/-- Power-on reset does to the block what SRESET does (R170). -/
theorem step_powerOnReset (s : State) (rest : List HostEvent) :
    step { s with inputs := .powerOnReset :: rest } = exec .sreset { s with inputs := rest } :=
  stepWith_cons Config.hw exec (s := { s with inputs := .powerOnReset :: rest }) rfl

/-- Every command but SRESET leaves ILL as it is or sets it, in any configuration (R153). -/
theorem execIn_keeps_ill {c : Config} {i : Instr} {s t : State} (hi : i ≠ .sreset) (hill : s.ill = true)
    (h : execIn c i s = .next t) : t.ill = true := by
  cases commandEffect_of_execIn h with
  | nop | crcInit | crcByte | crcCheck | stDecode | taLoad | taCheck | flagsClear => exact hill
  | parserAbsent | noExpectedAddress => rfl
  | sreset => exact absurd rfl hi

/-- Settles O41: SRESET's effect and word, the illegal forms of a command without operands, power-on reset, and the effects of the
other commands on ILL. -/
theorem sresetResetsEveryField : Obligations.SresetResetsEveryField := by
  refine ⟨fun _ => rfl, fun s => issueWith_ok (decode_encode .sreset) s, fun d1 d0 s h => ?_, step_powerOnReset,
    fun i s t hi hill h => ?_⟩
  · exact issue_formNone_of_ne (op := 0xF#4) (fun _ _ => rfl) h s
  · exact execIn_keeps_ill hi hill ((exec_eq_execIn i s).symm.trans h)

end Sys2Proof.Machine

/-! Exceptions (spec/60_exceptions.md): nothing stops the block (R154, R156), ILL is sticky (R153), and the flags that the engine reads
as its own errors (R159) follow the bytes. -/

namespace Sys2Proof.Machine

/-! ## Nothing stops the block (R154, R156) -/

/-- This hardware serves every event: a word, a read or a reset. -/
theorem serveWith_completes (e : HostEvent) (s : State) : ∃ t, serveWith Config.hw exec e s = .next t := by
  cases e with
  | command w => exact issue_completes w s
  | read a => exact ⟨s.readPort Config.hw a, rfl⟩
  | powerOnReset => exact ⟨s.resetBlock Config.hw, rfl⟩

theorem step_nil {s : State} (h : s.inputs = []) : step s = .next s := stepWith_nil Config.hw exec h

/-- Settles O9: with no event the step is idle; with one, serving it completes. -/
theorem stepAlwaysAnswersANextState : Obligations.StepAlwaysAnswersANextState := by
  refine ⟨fun s => ?_, fun _ => step_nil⟩
  cases hin : s.inputs with
  | nil => exact ⟨s, step_nil hin⟩
  | cons e rest =>
    obtain ⟨t, ht⟩ := serveWith_completes e { s with inputs := rest }
    exact ⟨t, (stepWith_cons Config.hw exec hin).trans ht⟩

/-! ## ILL is sticky (R153) -/

/-- SRESET's word clears ILL, and no other word does: illegal ones set it, and only that word decodes to SRESET. -/
theorem issue_clears_ill_iff {w : CmdWord} {s t : State} (hill : s.ill = true) (h : issue w s = .next t) :
    t.ill = false ↔ w = 0x0F0000#24 := by
  have hsreset : encode .sreset = 0x0F0000#24 := rfl
  obtain ⟨i, hdecode, hexec⟩ | ⟨⟨e, hdecode⟩, rfl⟩ := issue_next h
  · have hword : w = 0x0F0000#24 ↔ i = .sreset := by
      rw [← hsreset, eq_comm, ← decode_eq_ok_iff, hdecode, Except.ok.injEq]
    rw [hword]
    constructor
    · intro hclear
      by_contra hi
      exact absurd (execIn_keeps_ill hi hill hexec) (by simp [hclear])
    · rintro rfl
      cases hexec
      rfl
  · have hword : w ≠ 0x0F0000#24 := by
      rintro rfl
      cases hdecode
    exact iff_of_false nofun hword

/-- Serving an event clears ILL exactly for power-on reset and for SRESET's word. -/
theorem serveWith_clears_ill_iff {e : HostEvent} {s t : State} (hill : s.ill = true)
    (h : serveWith Config.hw exec e s = .next t) : t.ill = false ↔ e = .powerOnReset ∨ e = .command 0x0F0000#24 := by
  cases e with
  | command w => simp [issue_clears_ill_iff (w := w) hill h]
  | read a => cases h; simp [hill]
  | powerOnReset => cases h; exact iff_of_true rfl (.inl rfl)

/-- Settles O47: an idle step keeps ILL, and the event a step serves clears it exactly when it is one of the two. -/
theorem illIsClearedOnlyByReset : Obligations.IllIsClearedOnlyByReset := by
  intro s t hill h
  cases hin : s.inputs with
  | nil =>
    cases (step_nil hin).symm.trans h
    simp [hill]
  | cons e rest =>
    have hserve := (stepWith_cons Config.hw exec hin).symm.trans h
    rw [serveWith_clears_ill_iff (s := { s with inputs := rest }) hill hserve]
    simp [exists_or]

/-! ## The engine's readings (R109, R124, R159, R177) -/

/-- With the CRC verdict valid, TransmissionError is the verdict that failed. -/
theorem transmissionError_iff_of_valid {b : Block} (hcrc : b.crcValid = true) : b.TransmissionError ↔ ¬ b.crcOk = true := by
  simp [Block.TransmissionError, Block.crcVerdict, hcrc]

/-- With the three verdicts valid, StagingMismatch is a CRC that matches and an echo or a status that does not. -/
theorem stagingMismatch_iff_of_valid {b : Block} (hcrc : b.crcValid = true) (hst : b.stValid = true)
    (haddr : b.addrValid = true) :
    b.StagingMismatch ↔ b.crcOk = true ∧ (¬ b.addrOk = true ∨ ¬ b.stPass = true) := by
  simp [Block.StagingMismatch, Block.crcVerdict, Block.statusVerdict, Block.echoVerdict, hcrc, hst, haddr]

/-- Settles O37: both runs leave their verdicts valid (`writeCheckCoversTheWholeFrame`, `readCheckLeavesTheThreeVerdicts`), and each
verdict is its comparison of the bytes. -/
theorem engineReadingsFollowTheBytes : Obligations.EngineReadingsFollowTheBytes := by
  refine ⟨fun a payload c0 c1 s t h => ?_, fun a ta1 ta2 es payload c0 c1 s t h => ?_⟩
  · cases (writeCheckCoversTheWholeFrame a payload c0 c1 s).symm.trans h
    exact (transmissionError_iff_of_valid rfl).trans (not_congr crcMatches_iff)
  · obtain ⟨u, hrun, hcrc, hst, haddr, hcrcValid, hstValid, haddrValid, -⟩ :=
      readCheckLeavesTheThreeVerdicts a ta1 ta2 es payload c0 c1 s
    cases hrun.symm.trans h
    rw [stagingMismatch_iff_of_valid hcrcValid hstValid haddrValid, hcrc, hst, haddr]
    rfl

end Sys2Proof.Machine

/-! Reset and hazards (spec/70_reset_and_hazards.md): both resets leave the state of power up (R170, R171), a span goes on until
CRC.INIT (R175), and the CRC engine and the parser share no state (R178). -/

namespace Sys2Proof.Machine

/-! ## Reset (R170, R171) -/

/-- Settles O42: power-on reset is served as SRESET, whose block is that of `State.reset`. -/
theorem bothResetsLeaveTheResetState : Obligations.BothResetsLeaveTheResetState :=
  fun s rest => ⟨step_powerOnReset s rest, _, rfl, resetBlock_toBlock _ Config.hw⟩

theorem reset_status (c : Config) : (Block.reset c).status = 0x00#8 := by
  simp [Block.status, Block.reset]

/-- Settles O43: the fields of `Block.reset` one by one; reads 1 and 7 are those of the map (R32) and of CONFIG (R30). -/
theorem resetValueOfEveryField : Obligations.ResetValueOfEveryField := by
  obtain ⟨hconfig, -, -⟩ := configIsHardwired
  obtain ⟨-, hreset⟩ := registerReadMap
  exact ⟨fun c => ⟨rfl, rfl, reset_status c, rfl, rfl, rfl, rfl, hconfig c _⟩, rfl, rfl, hreset 1⟩

/-! ## A span goes on until CRC.INIT (R175) -/

/-- Bytes presented without CRC.INIT are fed to the accumulator as it stands, whatever it holds. -/
theorem runCommands_crcBytes_acc (bytes : List Byte) (s : State) :
    ∃ t, runCommands (bytes.map .crcByte) s = .next t ∧ t.acc = crcFeed Config.hw s.acc bytes := by
  cases bytes with
  | nil => exact ⟨s, runCommands_nil s, rfl⟩
  | cons b bytes =>
    have hfeed : exec (.crcByte b) s = .next (s.setAcc (crcUpdate Config.hw s.acc b)) := rfl
    have hrest := runCommands_crcBytes bytes [] s (crcUpdate Config.hw s.acc b)
    rw [List.append_nil] at hrest
    exact ⟨_, (runCommands_cons (decode_encode _) hfeed _).trans hrest, rfl⟩

/-- Settles O29: the new bytes are fed to the old span's CRC, and feeding two spans in turn is feeding them joined. -/
theorem bytesWithoutInitExtendTheOldSpan : Obligations.BytesWithoutInitExtendTheOldSpan := by
  intro old new s hacc
  obtain ⟨t, hrun, ht⟩ := runCommands_crcBytes_acc new s
  refine ⟨t, hrun, ?_⟩
  calc t.acc = crcFeed Config.hw (crcSpan Config.hw old) new := by rw [ht, hacc]
    _ = crcSpan Config.hw (old ++ new) := (crcFeed_append _ _ old new).symm

/-! ## The CRC engine and the parser share no state (R178) -/

/-- What a command leaves of ACC, RX_CRC, CRC_OK and CRC_VALID, computed from these four alone (R33, R25); that the machine
computes it is `exec_crcSide`. -/
def crcSideAfter (i : Instr) : Half × Half × Bool × Bool → Half × Half × Bool × Bool
  | (acc, rx, ok, valid) =>
    match i with
    | .crcInit => (Config.hw.crcInit, rx, false, false)
    | .crcByte b => (crcUpdate Config.hw acc b, rx, false, false)
    | .crcCheck c0 c1 => (acc, wireValue Config.hw c0 c1, crcMatches Config.hw acc (wireValue Config.hw c0 c1), true)
    | .flagsClear => (acc, rx, false, false)
    | .sreset => (Block.reset Config.hw).crcSide
    | .nop | .stDecode _ | .taLoad _ | .taCheck _ _ => (acc, rx, ok, valid)

/-- What a command leaves of ES, TA_ECHO, EXP_ADDR and the parser's five flags, computed from these eight alone (R33, R25); that
the machine computes it is `exec_parserSide`. -/
def parserSideAfter (i : Instr) :
    Byte × Half × Half × Bool × Bool × Bool × Bool × Bool → Byte × Half × Half × Bool × Bool × Bool × Bool × Bool
  | (es, echo, exp, pass, stValid, addrOk, addrValid, expValid) =>
    match i with
    | .stDecode es' => (es', echo, exp, stPassCheck es', true, addrOk, addrValid, expValid)
    | .taLoad a => (es, echo, a, pass, stValid, false, false, true)
    | .taCheck ta1 ta2 =>
      if expValid then
        (es, echoAddress ta1 ta2, exp, pass, stValid, echoMatches (echoAddress ta1 ta2) exp, true, expValid)
      else (es, echo, exp, pass, stValid, addrOk, addrValid, expValid)
    | .flagsClear => (es, echo, exp, false, false, false, false, expValid)
    | .sreset => (Block.reset Config.hw).parserSide
    | .nop | .crcInit | .crcByte _ | .crcCheck _ _ => (es, echo, exp, pass, stValid, addrOk, addrValid, expValid)

theorem exec_crcSide {i : Instr} {s t : State} (h : exec i s = .next t) : t.crcSide = crcSideAfter i s.crcSide := by
  rw [exec_eq_execIn] at h
  cases commandEffect_of_execIn h with
  | nop | crcInit | crcByte | crcCheck | stDecode | taLoad | taCheck | flagsClear | sreset | noExpectedAddress => rfl
  | parserAbsent _ _ hc => cases hc

/-- TA.CHECK reads EXP_VALID, which is itself on the parser's side. -/
theorem exec_parserSide {i : Instr} {s t : State} (h : exec i s = .next t) :
    t.parserSide = parserSideAfter i s.parserSide := by
  rw [exec_eq_execIn] at h
  cases commandEffect_of_execIn h with
  | nop | crcInit | crcByte | crcCheck | stDecode | taLoad | flagsClear | sreset => rfl
  | taCheck _ _ _ hexp => exact (if_pos hexp).symm
  | noExpectedAddress _ _ _ hexp => exact (if_neg (by simp [hexp])).symm
  | parserAbsent _ _ hc => cases hc

/-- Settles O50: each side of the result is a function of the command and of that side alone. -/
theorem crcAndParserDoNotFeedEachOther : Obligations.CrcAndParserDoNotFeedEachOther := by
  intro i s s' t t' h h'
  refine ⟨fun hside => ?_, fun hside => ?_⟩
  · rw [exec_crcSide h, exec_crcSide h', hside]
  · rw [exec_parserSide h, exec_parserSide h', hside]

end Sys2Proof.Machine
